-- ==== Sys2Proof/Word.lean ====
section
/-! DEFINITION. Sys2Proof/Word.lean: the byte and the byte sequence, the only data BSFA moves (00_scope.md R10, R12). -/

namespace Sys2Proof

/-- A byte: 8 bits, bit 7 most significant, an unsigned value (R10, R11). -/
abbrev Byte := BitVec 8

/-- A finite byte sequence, first byte first (R12): an operand, a result, or the contents of `BUF`. -/
abbrev Bytes := List Byte

end Sys2Proof
end

