-- ==== Sys2Proof/Config.lean ====
section
/-! DEFINITION. Sys2Proof/Config.lean: the implementation parameters of 00_scope.md R8 and their constraints R9.
What R8 calls fixed is a definition; what it calls default or OPEN is a field of `Params`, which travels with the instance
(log entries 3 and 4), so that every statement of the model is about all values of it. -/

namespace Sys2Proof

/-- `DELIM`, the reserved delimiter byte A: fixed by R8. -/
def delim : Byte := 0x7E

/-- `START`, the byte that opens a frame: `= DELIM` (R8). -/
def startByte : Byte := delim

/-- `STOP`, the byte that closes a frame: `= DELIM` (R8). -/
def stopByte : Byte := delim

/-- `HEADER_MIN`: the unescaped length below which the host treats a frame as no message (R8). Read by no rule of the
block. -/
def headerMin : Nat := 12

/-- The constants of an instance (R8, R25): fixed when it is made, touched by no operation and by no reset (R220). -/
structure Params where
  /-- `ESC`, the escape marker, reserved byte B. -/
  esc : Byte
  /-- `CODE1`, the second byte of the pair that stands for `DELIM`. -/
  code1 : Byte
  /-- `CODE2`, the second byte of the pair that stands for `ESC`. -/
  code2 : Byte
  /-- `BUF_CAP`, the capacity of the accumulation buffer in bytes; `none` is `INF`. -/
  bufCap : Option Nat
  /-- `VERIFY_CHECKSUM`, the host's option (R147): read by no rule of the block. -/
  verifyChecksum : Bool
  /-- `VALIDATE_LENGTH`, the host's option (D19): read by no rule of the block. -/
  validateLength : Bool
  deriving DecidableEq, Repr

namespace Params

/-- The constraints of R9, P1 to P4, and R8's "a positive natural number or `INF`" for the capacity. -/
def legal (p : Params) : Bool :=
  p.esc != delim &&                             -- P1
  p.code1 != p.code2 &&                         -- P2
  (p.code1 != delim && p.code2 != delim) &&     -- P3
  (p.code1 != p.esc && p.code2 != p.esc) &&     -- P4
  p.bufCap != some 0

/-- The default values of R8. `ESC`, `CODE1`, `CODE2` are PRESUMED by the spec itself (G1, log entry 3); `INF` and the two
host options are a DESIGN CHOICE (log entry 4). -/
def standard : Params :=
  { esc := 0x7D, code1 := 0x02, code2 := 0x01, bufCap := none, verifyChecksum := true, validateLength := true }

end Params

end Sys2Proof
end

