-- ==== Sys2Proof/Syntax.lean ====
section
/-! DEFINITION. Sys2Proof/Syntax.lean: the 23 rows of spec/opcode_table.json as `Instr`, the named values the encodings use,
and `Packet`, what a host presents to the block in one transaction (30_encoding.md). -/

namespace Sys2Proof

/-- `STATE` (R21). Three values rest between operations; `done` (FRAME-COMPLETE) exists only inside a FEED (R28). -/
inductive AsmState where
  /-- `SCAN`, SCANNING-FOR-START: outside any frame. -/
  | scan
  /-- `INFR`, IN-FRAME. -/
  | infr
  /-- `ESCP`, ESCAPE-PENDING: inside a frame, the last byte was the escape marker. -/
  | escp
  /-- `DONE`, FRAME-COMPLETE: the buffer is being emitted. -/
  | done
  deriving DecidableEq, Repr

/-- The category of an incoming byte, format SYM8 (R62): `START = STOP` leaves three that can be told apart. -/
inductive Category where
  | delim
  | esc
  | other
  deriving DecidableEq, Repr

/-- The rows of FEED's transition table (R101 to R106). -/
inductive Row where
  /-- R101a -/
  | scanStart
  /-- R101b -/
  | scanElse
  /-- R102 -/
  | infrStop
  /-- R103 -/
  | infrStart
  /-- R104 -/
  | infrEsc
  /-- R105 -/
  | infrOther
  /-- R106 -/
  | escpAny
  deriving DecidableEq, Repr

/-- One code of the escaped domain (R64 to R66), as the left-to-right scan of R65 cuts them. -/
inductive Code where
  /-- `ESC, CODE1`: stands for `DELIM`. -/
  | pairDelim
  /-- `ESC, CODE2`: stands for `ESC`. -/
  | pairEsc
  /-- A byte other than `ESC`: stands for itself. -/
  | lit (v : Byte)
  /-- An `ESC` that heads no pair: copied unchanged (R66). -/
  | pairIll
  deriving DecidableEq, Repr

/-- One constructor per row of spec/opcode_table.json. -/
inductive Instr where
  -- format OP3 (R70)
  | idle
  | feed (b : Byte)
  | escape (s : Bytes)
  | unescape (t : Bytes)
  | checksum (p : Bytes)
  | check (u : Bytes)
  | frame (p : Bytes)
  | arst
  -- PSEUDO (R73)
  | assembleAll (w : Bytes)
  -- format SYM8 (R62)
  | symDelim
  | symEsc
  | symOther (b : Byte)
  -- FEEDROW (R101 to R106)
  | feedScanStart
  | feedScanElse (b : Byte)
  | feedInfrStop
  | feedInfrStart
  | feedInfrEsc
  | feedInfrOther (b : Byte)
  | feedEscpAny (b : Byte)
  -- formats PAIR16 and LIT8 (R64, R66)
  | pairDelim
  | pairEsc
  | lit (v : Byte)
  | pairIll
  deriving DecidableEq, Repr

/-- What the host presents to the block in one transaction: the undecoded form of an instruction, one constructor per format
of 30_encoding.md R60 and per grouping of opcode_table.json. The level is the transaction (R14, D1): no pin, no handshake. -/
inductive Packet where
  /-- Format OP3: the code on the command input with the byte input and the sequence input beside it. An operation reads
  the input its operand form names (R68) and no other (log entry 12). -/
  | op3 (op : BitVec 3) (byte : Byte) (seq : Bytes)
  /-- ASSEMBLE_ALL, which has no code of its own (R73, log entry 11). -/
  | pseudo (w : Bytes)
  /-- Format SYM8: one byte arriving at the assembler (log entry 8). -/
  | sym8 (b : Byte)
  /-- FEEDROW: the two bits of `STATE` (R21) and the byte that select a row (log entry 9). -/
  | feedRow (state : BitVec 2) (b : Byte)
  /-- Formats LIT8 and PAIR16: a non-empty escaped sequence, consumed code by code (log entry 10). -/
  | escaped (first : Byte) (rest : Bytes)
  /-- Two operations in progress at once (R223): refused (log entry 13). -/
  | overlap (first second : BitVec 3)
  deriving DecidableEq, Repr

/-- Why the decoder rejects a packet, by name. -/
inductive Reject where
  /-- Two operations at once on one instance: "a model refuses such a schedule" (R223, D15, U4). -/
  | overlappingOperations
  /-- A FEEDROW word whose `STATE` field is `DONE`: the table has no row for it (R100). -/
  | noRowInDone
  deriving DecidableEq, Repr

end Sys2Proof
end

