-- ==== Sys2Proof/WellFormed.lean ====
section
/-! DEFINITION. Sys2Proof/WellFormed.lean: which terms of `Instr` are instructions. A row whose operand byte is limited by
its encoding (opcode_table.json) has its limit here; all others take every operand (R67). -/

namespace Sys2Proof

/-- The check of an instruction against the encodings of 30_encoding.md, for the parameters of an instance. -/
def Instr.wellFormed (p : Params) : Instr → Bool
  | .idle => true
  | .feed _ => true
  | .escape _ => true
  | .unescape _ => true
  | .checksum _ => true
  | .check _ => true
  | .frame _ => true
  | .arst => true
  | .assembleAll _ => true
  | .symDelim => true
  | .symEsc => true
  | .symOther b => b != delim && b != p.esc           -- "any other of the 254 patterns" (R62)
  | .feedScanStart => true
  | .feedScanElse b => b != startByte                 -- R101b
  | .feedInfrStop => true
  | .feedInfrStart => startByte != stopByte           -- "never true" (R103)
  | .feedInfrEsc => true
  | .feedInfrOther b => b != stopByte && b != startByte && b != p.esc   -- R105
  | .feedEscpAny _ => true
  | .pairDelim => true
  | .pairEsc => true
  | .lit v => v != p.esc                              -- "any byte other than `ESC`" (R64)
  | .pairIll => true

end Sys2Proof
end

