-- ==== Sys2Proof/Decode.lean ====
section
/-! DEFINITION. Sys2Proof/Decode.lean: the decoder, total on every packet and rejecting by name, and the encoder, both from
the tables of 30_encoding.md. -/

namespace Sys2Proof

/-- The two-bit encoding of `STATE` (R21). -/
def AsmState.code : AsmState → BitVec 2
  | .scan => 0b00
  | .infr => 0b01
  | .escp => 0b10
  | .done => 0b11

/-- The state a two-bit code names (R21). -/
def AsmState.ofCode (c : BitVec 2) : AsmState :=
  if c = 0b00 then .scan else if c = 0b01 then .infr else if c = 0b10 then .escp else .done

/-- The classification of an incoming byte, SYM_DELIM first, then SYM_ESC, else SYM_OTHER (R62). -/
def classify (p : Params) (b : Byte) : Category :=
  if b = delim then .delim else if b = p.esc then .esc else .other

/-- The row FEED performs, in R100's order of tests: in IN-FRAME the STOP test comes before the START test (R63). `START`
and `STOP` are arguments, so that the document's whole table is one definition (R103). No row begins in `DONE`. -/
def selectRow (start stop esc : Byte) : AsmState → Byte → Option Row
  | .scan, b => some (if b = start then .scanStart else .scanElse)
  | .infr, b =>
    some (if b = stop then .infrStop else if b = start then .infrStart else if b = esc then .infrEsc else .infrOther)
  | .escp, _ => some .escpAny
  | .done, _ => none

/-- The code at the head of a non-empty escaped sequence, and the bytes after it (R65). -/
def nextCode (p : Params) (b : Byte) (rest : Bytes) : Code × Bytes :=
  if b = p.esc then
    match rest with
    | [] => (.pairIll, [])
    | c :: t => if c = p.code1 then (.pairDelim, t) else if c = p.code2 then (.pairEsc, t) else (.pairIll, c :: t)
  else (.lit b, rest)

/-- The bytes of a code in the escaped domain (R64, R66). -/
def Code.escaped (p : Params) : Code → Bytes
  | .pairDelim => [p.esc, p.code1]
  | .pairEsc => [p.esc, p.code2]
  | .lit v => [v]
  | .pairIll => [p.esc]

/-- The plain bytes a code stands for (R64, R66). -/
def Code.plain (p : Params) : Code → Bytes
  | .pairDelim => [delim]
  | .pairEsc => [p.esc]
  | .lit v => [v]
  | .pairIll => [p.esc]

/-- The table row of a code. -/
def Code.instr : Code → Instr
  | .pairDelim => .pairDelim
  | .pairEsc => .pairEsc
  | .lit v => .lit v
  | .pairIll => .pairIll

/-- The operation an OP3 code selects: all eight are defined (R70, R71). -/
def decodeOp (op : BitVec 3) (byte : Byte) (seq : Bytes) : Instr :=
  if op = 0b000 then .idle
  else if op = 0b001 then .feed byte
  else if op = 0b010 then .escape seq
  else if op = 0b011 then .unescape seq
  else if op = 0b100 then .checksum seq
  else if op = 0b101 then .check seq
  else if op = 0b110 then .frame seq
  else .arst

/-- The row a byte's category names (R62). -/
def decodeSym (p : Params) (b : Byte) : Instr :=
  match classify p b with
  | .delim => .symDelim
  | .esc => .symEsc
  | .other => .symOther b

/-- The FEEDROW instruction of a row and the byte that selected it. -/
def Row.instr (b : Byte) : Row → Instr
  | .scanStart => .feedScanStart
  | .scanElse => .feedScanElse b
  | .infrStop => .feedInfrStop
  | .infrStart => .feedInfrStart
  | .infrEsc => .feedInfrEsc
  | .infrOther => .feedInfrOther b
  | .escpAny => .feedEscpAny b

/-- The bytes left over of an escaped sequence, as the next packet. -/
def leftover : Bytes → Option Packet
  | [] => none
  | b :: t => some (.escaped b t)

/-- The decoder: a packet is an instruction and possibly a rest to be decoded next, or is rejected by name. -/
def decode (p : Params) : Packet → Except Reject (Instr × Option Packet)
  | .op3 op byte seq => .ok (decodeOp op byte seq, none)
  | .pseudo w => .ok (.assembleAll w, none)
  | .sym8 b => .ok (decodeSym p b, none)
  | .feedRow c b =>
    match selectRow startByte stopByte p.esc (AsmState.ofCode c) b with
    | some row => .ok (row.instr b, none)
    | none => .error .noRowInDone
  | .escaped b rest => .ok ((nextCode p b rest).1.instr, leftover (nextCode p b rest).2)
  | .overlap _ _ => .error .overlappingOperations

/-- The packet of an instruction, from the encodings of 30_encoding.md. FEED.INFR.START has none: no byte selects it (R103). -/
def encode (p : Params) : Instr → Option Packet
  | .idle => some (.op3 0b000 0 [])
  | .feed b => some (.op3 0b001 b [])
  | .escape s => some (.op3 0b010 0 s)
  | .unescape t => some (.op3 0b011 0 t)
  | .checksum q => some (.op3 0b100 0 q)
  | .check u => some (.op3 0b101 0 u)
  | .frame q => some (.op3 0b110 0 q)
  | .arst => some (.op3 0b111 0 [])
  | .assembleAll w => some (.pseudo w)
  | .symDelim => some (.sym8 0b01111110)
  | .symEsc => some (.sym8 p.esc)
  | .symOther b => some (.sym8 b)
  | .feedScanStart => some (.feedRow 0b00 0b01111110)
  | .feedScanElse b => some (.feedRow 0b00 b)
  | .feedInfrStop => some (.feedRow 0b01 0b01111110)
  | .feedInfrStart => none
  | .feedInfrEsc => some (.feedRow 0b01 p.esc)
  | .feedInfrOther b => some (.feedRow 0b01 b)
  | .feedEscpAny b => some (.feedRow 0b10 b)
  | .pairDelim => some (.escaped p.esc [p.code1])
  | .pairEsc => some (.escaped p.esc [p.code2])
  | .lit v => some (.escaped v [])
  | .pairIll => some (.escaped p.esc [])

/-- The packet that a bare word of the opcode table stands for (log entry 14). The table's words belong to three formats with
no tag to tell them apart, so the width and the value decide: one byte with bits 7 to 3 zero is an OP3 code with operands of
zeros, any other single byte is a SYM8 symbol, and two bytes are a PAIR16 word, whose first byte is bits 15 to 8 (R64). -/
def tablePacket (nbits w : Nat) : Option Packet :=
  if nbits ≤ 8 then
    if w < 8 then some (.op3 (BitVec.ofNat 3 w) 0 [])
    else if w < 256 then some (.sym8 (BitVec.ofNat 8 w))
    else none
  else if nbits ≤ 16 then
    if w < 65536 then some (.escaped (BitVec.ofNat 8 (w / 256)) [BitVec.ofNat 8 w]) else none
  else none

/-- The instruction the decoder reads from a word numbered as spec/opcode_table.json numbers it, with R8's default
parameters, which are the ones the table's words are written with. -/
def decodeTableWord (nbits w : Nat) : Option Instr :=
  match tablePacket nbits w with
  | none => none
  | some k =>
    match decode Params.standard k with
    | .ok (i, _) => some i
    | .error _ => none

end Sys2Proof
end

