-- ==== Sys2Proof/Machine/State.lean ====
section
/-! DEFINITION. Sys2Proof/Machine/State.lean: the state of one instance (10_state.md), with its constants and with the host's
two lists, and what it holds after reset (R32). -/

namespace Sys2Proof.Machine

/-- What an operation hands to the host (R68). -/
inductive Result where
  /-- FEED's `none` or `some(f)`, `f` a raw frame. -/
  | frame (f : Option Bytes)
  /-- A byte sequence: ESCAPE, UNESCAPE, FRAME, and the plain bytes of one escaped code. -/
  | bytes (s : Bytes)
  /-- One byte: CHECKSUM. -/
  | byte (b : Byte)
  /-- A boolean: CHECK. -/
  | bool (b : Bool)
  /-- The raw frames ASSEMBLE_ALL collected, in order. -/
  | frames (fs : List Bytes)
  deriving DecidableEq, Repr

/-- The faults of R201's table that the block has. No step ANSWERS one: `raise` "records the fault in `OVF` and does not stop
the operation" (R107), so the fault is read from the state (`State.recordedFault`, log entry 7). -/
inductive Fault where
  /-- Raised by the append of a FEED at `LEN == BUF_CAP` (R202), recorded in `OVF`. Safe: a claim about frames delivered
  takes `OVF == 0` as a premise. -/
  | bufferOverflow
  deriving DecidableEq, Repr

/-- Why a step has no next state. -/
inductive Refusal where
  /-- An instruction the model gives no meaning yet; raised by `exec` alone. Safe. No arm raises it. -/
  | notModelled (mnemonic : String)
  /-- The instance's parameters fail P1 to P4 or its capacity is 0: "refused at configuration" (R9, R214). Raised by
  `State.create` and by `step`. Safe: toward unprovable. -/
  | illegalParameters
  /-- The decoder rejected the packet: two operations at once (R223) or a word that names no row. Raised by `step`. Safe. -/
  | undecodable (why : Reject)
  /-- A step of an instance that does not exist. Raised by `Instances.stepAt`. Safe. -/
  | noSuchInstance
  deriving DecidableEq, Repr

/-- One BSFA instance. -/
structure State where
  /-- The constants of the instance (R8, R25), written by no operation. -/
  params : Params
  /-- `STATE` (R21). -/
  state : AsmState
  /-- `BUF`, the accumulation buffer, in arrival order (R22). -/
  buf : Bytes
  /-- `TRUNC`: the frame now being received has lost a byte to overflow (R24). -/
  trunc : Bool
  /-- `OVF`, sticky: an overflow has happened since reset (R24). -/
  ovf : Bool
  /-- `ACC`, working register of the checksum unit (R27, log entry 6). -/
  acc : Byte
  /-- `PEND`, working register of the unescaper (R27, log entry 6). -/
  pend : Bool
  /-- The model's own field: what the host has yet to issue (log entry 1). -/
  pending : List Packet
  /-- The model's own field: what the operations have returned, oldest first (R237, log entry 1). -/
  results : List Result
  deriving DecidableEq, Repr

/-- A freshly created instance with given constants: every element at its value of R32. -/
def State.fresh (p : Params) : State :=
  { params := p, state := .scan, buf := [], trunc := false, ovf := false, acc := 0, pend := false,
    pending := [], results := [] }

/-- The machine right after reset (R32, R220), with the default constants of R8. -/
def State.reset : State := State.fresh Params.standard

end Sys2Proof.Machine
end

