-- ==== Sys2Proof/Machine/Flags.lean ====
section
/-! DEFINITION. Sys2Proof/Machine/Flags.lean: the two flags `TRUNC` and `OVF` (10_state.md R24), the fault they record
(60_exceptions.md R201), the status outputs (R25), and the exclusive-or over bytes, the block's only arithmetic (R142). -/

namespace Sys2Proof.Machine

/-- `a XOR b` (R13, R142). -/
def xorByte (a b : Byte) : Byte := a ^^^ b

/-- `TRUNC <- 1; OVF <- 1` (R107). -/
def State.setOverflow (s : State) : State := { s with trunc := true, ovf := true }

/-- The fault the state records (R202: "`OVF` is a fault bit"). -/
def State.recordedFault (s : State) : Option Fault := if s.ovf then some .bufferOverflow else none

/-- The code number of a fault (R201). -/
def Fault.number : Fault → Nat
  | .bufferOverflow => 1

/-- The status outputs of R25. -/
structure Status where
  state : BitVec 2
  len : Nat
  trunc : Bool
  ovf : Bool
  deriving DecidableEq, Repr

/-- Reading the status outputs: the state elements themselves, without side effect (R25). -/
def State.status (s : State) : Status :=
  { state := s.state.code, len := s.buf.length, trunc := s.trunc, ovf := s.ovf }

end Sys2Proof.Machine
end

