-- ==== Sys2Proof/Machine/Ops.lean ====
section
/-! DEFINITION. Sys2Proof/Machine/Ops.lean: the named operations over the storage `BUF` (20_memory.md R40), raising the
block's one exception (R107, R202, R205), the working registers `ACC` and `PEND` step by step (R126, R141), creating and
resetting an instance (R220), handing a result to the host, and fetching the next operation. -/

namespace Sys2Proof.Machine

/-! ## The storage -/

/-- `LEN` (R20). -/
def State.len (s : State) : Nat := s.buf.length

/-- `MemRead(i, 1) = BUF[i]`, defined for `0 <= i < LEN` (R13). -/
def State.memRead (s : State) (i : Nat) : Option Byte := s.buf[i]?

/-- `LEN < BUF_CAP`; always so for `INF` (R107). -/
def State.hasRoom (s : State) : Bool :=
  match s.params.bufCap with
  | none => true
  | some n => s.buf.length < n

/-- The form a buffer keeps: `LEN <= BUF_CAP` (R31 (I-d)). -/
def Memory.wf (cap : Option Nat) (buf : Bytes) : Bool :=
  match cap with
  | none => true
  | some n => buf.length ≤ n

/-- `MemWrite(LEN, 1, b)`, that is `BUF <- BUF ++ [b]`: the only write there is (R40). -/
def State.memAppend (b : Byte) (s : State) : State := { s with buf := s.buf ++ [b] }

/-- Taking the block's one exception, `raise BufferOverflow(b)`: there is no trap entry, nothing is saved and control goes
nowhere (R205); `TRUNC` and `OVF` record it and the byte is not kept (R201). There is no return from it (R206). -/
def State.raiseBufferOverflow (s : State) : State := s.setOverflow

/-- `append(b)` (R107). -/
def State.append (b : Byte) (s : State) : State :=
  if s.hasRoom then s.memAppend b else s.raiseBufferOverflow

/-- `STATE <- v`. -/
def State.goto (v : AsmState) (s : State) : State := { s with state := v }

/-- The clear, `BUF <- []; TRUNC <- 0` (R40, rows R101a, R102, R103). -/
def State.clearFrame (s : State) : State := { s with buf := [], trunc := false }

/-- What a closing delimiter emits: `BUF`, if it is not empty and has lost no byte (R102). -/
def State.emission (s : State) : Option Bytes :=
  if s.buf ≠ [] ∧ s.trunc = false then some s.buf else none

/-! ## The working registers -/

/-- `ACC <- 0x00; PEND <- 0`, at the start of CHECKSUM, CHECK, UNESCAPE and FRAME (R27). -/
def State.clearWorking (s : State) : State := { s with acc := 0, pend := false }

/-- `xclr()` (R141). -/
def State.xclr (s : State) : State := { s with acc := 0 }

/-- `xabs(b)` (R141). -/
def State.xabs (s : State) (b : Byte) : State := { s with acc := xorByte s.acc b }

/-- `xrd()` (R141). -/
def State.xrd (s : State) : Byte := s.acc

/-- `unesc_put(b)` (R126): the new state and what is emitted. -/
def State.unescPut (b : Byte) (s : State) : State × Bytes :=
  if s.pend then
    if b = s.params.code1 then ({ s with pend := false }, [delim])
    else if b = s.params.code2 then ({ s with pend := false }, [s.params.esc])
    else if b = s.params.esc then (s, [s.params.esc])
    else ({ s with pend := false }, [s.params.esc, b])
  else if b = s.params.esc then ({ s with pend := true }, [])
  else (s, [b])

/-- `unesc_end()` (R126). -/
def State.unescEnd (s : State) : State × Bytes :=
  if s.pend then ({ s with pend := false }, [s.params.esc]) else (s, [])

/-- Feeding a sequence to `unesc_put` byte by byte: the state after it and all that was emitted. -/
def State.unescPuts : Bytes → State → State × Bytes
  | [], s => (s, [])
  | b :: t, s => ((State.unescPuts t (s.unescPut b).1).1, (s.unescPut b).2 ++ (State.unescPuts t (s.unescPut b).1).2)

/-! ## Reset, creation, results -/

/-- `STATE <- SCAN; BUF <- []; TRUNC <- 0; OVF <- 0` (R110), and the working registers at their values of R32. The constants
are not touched (R220), nor is what belongs to the host. -/
def State.resetInstance (s : State) : State :=
  { s with state := .scan, buf := [], trunc := false, ovf := false, acc := 0, pend := false }

/-- Creating an instance for a new connection (R220, R222): a fresh one, or a refusal of constants that fail R9. -/
def State.create (p : Params) : Host.Outcome State Fault Refusal :=
  if p.legal then .next (State.fresh p) else .refused .illegalParameters

/-- Handing a result to the host (R14, R53): it is the host's from then on. -/
def State.hand (r : Result) (s : State) : State := { s with results := s.results ++ [r] }

/-! ## Fetching the next operation -/

/-- The operation the host presents next, decoded, and the state with it taken from the list. With nothing presented the
command input reads as zero, IDLE (R118, D12, log entry 2). Constants that fail R9 are refused (R214). -/
def State.fetch (s : State) : Except Refusal (Instr × State) :=
  if s.params.legal then
    match s.pending with
    | [] => .ok (.idle, s)
    | k :: ks =>
      match decode s.params k with
      | .ok (i, more) => .ok (i, { s with pending := more.toList ++ ks })
      | .error why => .error (.undecodable why)
  else .error .illegalParameters

/-- The state with a packet presented before everything else the host has yet to issue. -/
def State.present (k : Packet) (s : State) : State := { s with pending := k :: s.pending }

/-- The state with the word of an opcode-table row presented next (log entry 14). -/
def State.presentWord (s : State) (nbits w : Nat) : State :=
  match tablePacket nbits w with
  | some k => s.present k
  | none => s

end Sys2Proof.Machine
end

