-- ==== Sys2Proof/Machine/Operands.lean ====
section
/-! DEFINITION. Sys2Proof/Machine/Operands.lean: the operand and result forms of 30_encoding.md R68 and the assembly of the
payload R69. -/

namespace Sys2Proof.Machine

/-- Completing an operation that returns `r` and touches no register. -/
def complete (r : Result) (s : State) : Host.Outcome State Fault Refusal := .next (s.hand r)

/-- Completing CHECKSUM, CHECK, UNESCAPE or FRAME: `ACC` and `PEND` were set to their initial value at the start and do not
survive the operation (R27, log entry 6). -/
def completeWorking (r : Result) (s : State) : Host.Outcome State Fault Refusal := .next (s.clearWorking.hand r)

/-- The payload: the checksum byte is "appended as the last payload byte before escaping/delimiting" (R69). -/
def appendTrailing (p : Bytes) (c : Byte) : Bytes := p ++ [c]

/-- A received payload split into what was summed, `u[0 : |u|-1]`, and its trailing byte `u[|u|-1]` (R146); `none` when it is
empty. -/
def splitTrailing (u : Bytes) : Option (Bytes × Byte) :=
  match u.getLast? with
  | none => none
  | some c => some (u.dropLast, c)

end Sys2Proof.Machine
end

