-- ==== Sys2Proof/Machine/Assembler.lean ====
section
/-! DEFINITION. Sys2Proof/Machine/Assembler.lean: the frame assembler (40_assembler.md): FEED and its rows, ARST, IDLE,
ASSEMBLE_ALL, and the arrival of a classified byte. -/

namespace Sys2Proof.Machine

/-- From FRAME-COMPLETE: "immediately transitions back to SCANNING-FOR-START after emitting the accumulated buffer (if
non-empty)" (R102, R28). -/
def completeFrame (s : State) : State × Option Bytes := (s.clearFrame.goto .scan, s.emission)

/-- Performing a row of the transition table: the new state and what FEED returns (R101 to R106). -/
def performRow (row : Row) (b : Byte) (s : State) : State × Option Bytes :=
  match row with
  | .scanStart => (s.clearFrame.goto .infr, none)
  | .scanElse => (s, none)
  | .infrStop => completeFrame (s.goto .done)
  | .infrStart => (s.clearFrame.goto .infr, none)
  | .infrEsc => ((s.append b).goto .escp, none)
  | .infrOther => (s.append b, none)
  | .escpAny => ((s.append b).goto .infr, none)

/-- The row this hardware's table selects, `START = STOP = DELIM` (R100). -/
def rowOf (s : State) (b : Byte) : Option Row := selectRow startByte stopByte s.params.esc s.state b

/-- `FEED(b)` (R100): select one row and perform it and nothing else. No row begins in `DONE`, which never rests (R28); a
`State` value that has it first completes its transition, consuming no byte, and `b` is then met in `SCAN` (log entry 5). -/
def feed (b : Byte) (s : State) : State × Option Bytes :=
  match rowOf s b with
  | some row => performRow row b s
  | none =>
    ((performRow (if b = startByte then .scanStart else .scanElse) b (completeFrame s).1).1, (completeFrame s).2)

/-- `ASSEMBLE_ALL(w)`: FEED each byte in order and collect the frames (R111). -/
def assembleAll : Bytes → State → State × List Bytes
  | [], s => (s, [])
  | b :: w, s => ((assembleAll w (feed b s).1).1, (feed b s).2.toList ++ (assembleAll w (feed b s).1).2)

/-- FEED with its result handed to the host. -/
def feedAndHand (b : Byte) (s : State) : Host.Outcome State Fault Refusal :=
  complete (.frame (feed b s).2) (feed b s).1

/-- A table row as an instruction: it is performed when `STATE` and the byte select it; a row that is not selected is not
performed and nothing happens (R100: "performs that row and nothing else"; log entry 9). -/
def performIfSelected (row : Row) (b : Byte) (s : State) : Host.Outcome State Fault Refusal :=
  if rowOf s b = some row then complete (.frame (performRow row b s).2) (performRow row b s).1 else .next s

/-- IDLE: nothing (R118). -/
def execIdle (s : State) : Host.Outcome State Fault Refusal := .next s

/-- FEED (R100). -/
def execFeed (b : Byte) (s : State) : Host.Outcome State Fault Refusal := feedAndHand b s

/-- ARST (R110): the reset state; returns nothing. -/
def execArst (s : State) : Host.Outcome State Fault Refusal := .next s.resetInstance

/-- ASSEMBLE_ALL (R111). -/
def execAssembleAll (w : Bytes) (s : State) : Host.Outcome State Fault Refusal :=
  complete (.frames (assembleAll w s).2) (assembleAll w s).1

/-- SYM_DELIM: the arrival of `0x7E`, START in `SCAN`, STOP in `INFR`, an ordinary byte in `ESCP` (R62, R63, log entry 8). -/
def execSymDelim (s : State) : Host.Outcome State Fault Refusal := feedAndHand delim s

/-- SYM_ESC: the arrival of the escape marker (R62). -/
def execSymEsc (s : State) : Host.Outcome State Fault Refusal := feedAndHand s.params.esc s

/-- SYM_OTHER: the arrival of any other byte (R62). -/
def execSymOther (b : Byte) (s : State) : Host.Outcome State Fault Refusal := feedAndHand b s

/-- FEED.SCAN.START (R101a). -/
def execFeedScanStart (s : State) : Host.Outcome State Fault Refusal := performIfSelected .scanStart startByte s

/-- FEED.SCAN.ELSE (R101b). -/
def execFeedScanElse (b : Byte) (s : State) : Host.Outcome State Fault Refusal := performIfSelected .scanElse b s

/-- FEED.INFR.STOP (R102). -/
def execFeedInfrStop (s : State) : Host.Outcome State Fault Refusal := performIfSelected .infrStop stopByte s

/-- FEED.INFR.START (R103): `START == STOP`, so it is never selected. -/
def execFeedInfrStart (s : State) : Host.Outcome State Fault Refusal := performIfSelected .infrStart startByte s

/-- FEED.INFR.ESC (R104). -/
def execFeedInfrEsc (s : State) : Host.Outcome State Fault Refusal := performIfSelected .infrEsc s.params.esc s

/-- FEED.INFR.OTHER (R105). -/
def execFeedInfrOther (b : Byte) (s : State) : Host.Outcome State Fault Refusal := performIfSelected .infrOther b s

/-- FEED.ESCP.ANY (R106). -/
def execFeedEscpAny (b : Byte) (s : State) : Host.Outcome State Fault Refusal := performIfSelected .escpAny b s

end Sys2Proof.Machine
end

