-- ==== Sys2Proof/Machine/Checksum.lean ====
section
/-! DEFINITION. Sys2Proof/Machine/Checksum.lean: the XOR checksum unit (42_checksum.md): CHECKSUM and CHECK. -/

namespace Sys2Proof.Machine

/-- `CHECKSUM(p)`: the XOR of all bytes, 0 for the empty sequence (R140). -/
def checksum (p : Bytes) : Byte := p.foldl xorByte 0

/-- `CHECK(u)`: does the checksum of all bytes but the last equal the last; `false` when there is none (R146). -/
def check (u : Bytes) : Bool :=
  match splitTrailing u with
  | none => false
  | some (p, c) => checksum p == c

/-- CHECKSUM (R140). -/
def execChecksum (p : Bytes) (s : State) : Host.Outcome State Fault Refusal :=
  completeWorking (.byte (checksum p)) s

/-- CHECK (R146): a mismatch raises nothing, it is the result `false`. -/
def execCheck (u : Bytes) (s : State) : Host.Outcome State Fault Refusal :=
  completeWorking (.bool (check u)) s

end Sys2Proof.Machine
end

