-- ==== Sys2Proof/Machine/Codec.lean ====
section
/-! DEFINITION. Sys2Proof/Machine/Codec.lean: the escape codec (41_escape_codec.md): ESCAPE, UNESCAPE, their other
descriptions, and the codes of the escaped domain one by one. -/

namespace Sys2Proof.Machine

/-- The per-byte map `esc1` (R121). -/
def esc1 (p : Params) (b : Byte) : Bytes :=
  if b = delim then [p.esc, p.code1] else if b = p.esc then [p.esc, p.code2] else [b]

/-- `ESCAPE(s)`: the single left-to-right pass (R120). -/
def escape (p : Params) (s : Bytes) : Bytes := s.flatMap (esc1 p)

/-- `UNESCAPE(t)`: the scan of R125, which is normative. -/
def unescape (p : Params) : Bytes → Bytes
  | [] => []
  | [b] => [b]
  | b :: c :: t =>
    if b = p.esc ∧ c = p.code1 then delim :: unescape p t
    else if b = p.esc ∧ c = p.code2 then p.esc :: unescape p t
    else b :: unescape p (c :: t)

/-- The codes the scan of R65 cuts a sequence into, left to right. -/
def codes (p : Params) : Bytes → List Code
  | [] => []
  | [b] => if b = p.esc then [.pairIll] else [.lit b]
  | b :: c :: t =>
    if b = p.esc then
      if c = p.code1 then .pairDelim :: codes p t
      else if c = p.code2 then .pairEsc :: codes p t
      else .pairIll :: codes p (c :: t)
    else .lit b :: codes p (c :: t)

/-- R123's well-formed sequences: no `DELIM` in it, and every `ESC` in it followed by `CODE1` or `CODE2`. -/
def escapedForm (p : Params) : Bytes → Bool
  | [] => true
  | [b] => b != delim && b != p.esc
  | b :: c :: t => b != delim && (b != p.esc || c == p.code1 || c == p.code2) && escapedForm p (c :: t)

/-- One whole-sequence replacement of a byte by a pair (R124). -/
def replaceByte (x : Byte) (pair : Bytes) (s : Bytes) : Bytes := s.flatMap fun b => if b = x then pair else [b]

/-- One whole-sequence replacement of the pair `x, y` by the byte `z`: non-overlapping, from the left, not re-scanning what
it wrote (R128). -/
def replacePair (x y z : Byte) : Bytes → Bytes
  | [] => []
  | [b] => [b]
  | b :: c :: t => if b = x ∧ c = y then z :: replacePair x y z t else b :: replacePair x y z (c :: t)

/-- The document's two ordered replacements for `escape`: the marker first (R124). -/
def escapeTwoPass (p : Params) (s : Bytes) : Bytes :=
  replaceByte delim [p.esc, p.code1] (replaceByte p.esc [p.esc, p.code2] s)

/-- The document's two ordered replacements for `unescape`: the `CODE1` pair first (R128). -/
def unescapeTwoPass (p : Params) (t : Bytes) : Bytes :=
  replacePair p.esc p.code2 p.esc (replacePair p.esc p.code1 delim t)

/-- ESCAPE (R120): state read and written, none. -/
def execEscape (x : Bytes) (s : State) : Host.Outcome State Fault Refusal :=
  complete (.bytes (escape s.params x)) s

/-- UNESCAPE (R125); it raises nothing on ill-formed input (R127). -/
def execUnescape (t : Bytes) (s : State) : Host.Outcome State Fault Refusal :=
  completeWorking (.bytes (unescape s.params t)) s

/-- One code met by the unescaper: the plain bytes it stands for (R64, R66, log entry 10). -/
def unescapeCode (c : Code) (s : State) : Host.Outcome State Fault Refusal :=
  complete (.bytes (c.plain s.params)) s

/-- PAIR_DELIM: `DELIM` (R64). -/
def execPairDelim (s : State) : Host.Outcome State Fault Refusal := unescapeCode .pairDelim s

/-- PAIR_ESC: `ESC` (R64). -/
def execPairEsc (s : State) : Host.Outcome State Fault Refusal := unescapeCode .pairEsc s

/-- LIT: the byte itself (R64). -/
def execLit (v : Byte) (s : State) : Host.Outcome State Fault Refusal := unescapeCode (.lit v) s

/-- PAIR_ILL: its `ESC`, copied unchanged; scanning resumes at the next byte (R66, R127). -/
def execPairIll (s : State) : Host.Outcome State Fault Refusal := unescapeCode .pairIll s

end Sys2Proof.Machine
end

