-- ==== Sys2Proof/Machine/Framer.lean ====
section
/-! DEFINITION. Sys2Proof/Machine/Framer.lean: the response framer (43_framer.md): FRAME. -/

namespace Sys2Proof.Machine

/-- The escaped payload of `p`: `ESCAPE(p ++ [CHECKSUM(p)])`, what stands between the delimiters (R61). -/
def escapedPayload (c : Params) (p : Bytes) : Bytes := escape c (appendTrailing p (checksum p))

/-- `FRAME(p)`: checksum, then escape, then delimit (R160, R161). -/
def frame (c : Params) (p : Bytes) : Bytes := [startByte] ++ escapedPayload c p ++ [stopByte]

/-- FRAME (R160): it touches no state of the assembler (R166). -/
def execFrame (p : Bytes) (s : State) : Host.Outcome State Fault Refusal :=
  completeWorking (.bytes (frame s.params p)) s

end Sys2Proof.Machine
end

