-- ==== Sys2Proof/Machine/Dispatch.lean ====
section
/-! DEFINITION. Sys2Proof/Machine/Dispatch.lean: one arm per row of spec/opcode_table.json. -/

namespace Sys2Proof.Machine

def exec (i : Instr) (s : State) : Host.Outcome State Fault Refusal :=
  match i with
  | .idle => Sys2Proof.Machine.execIdle s
  | .feed b => Sys2Proof.Machine.execFeed b s
  | .escape x => Sys2Proof.Machine.execEscape x s
  | .unescape t => Sys2Proof.Machine.execUnescape t s
  | .checksum p => Sys2Proof.Machine.execChecksum p s
  | .check u => Sys2Proof.Machine.execCheck u s
  | .frame p => Sys2Proof.Machine.execFrame p s
  | .arst => Sys2Proof.Machine.execArst s
  | .assembleAll w => Sys2Proof.Machine.execAssembleAll w s
  | .symDelim => Sys2Proof.Machine.execSymDelim s
  | .symEsc => Sys2Proof.Machine.execSymEsc s
  | .symOther b => Sys2Proof.Machine.execSymOther b s
  | .feedScanStart => Sys2Proof.Machine.execFeedScanStart s
  | .feedScanElse b => Sys2Proof.Machine.execFeedScanElse b s
  | .feedInfrStop => Sys2Proof.Machine.execFeedInfrStop s
  | .feedInfrStart => Sys2Proof.Machine.execFeedInfrStart s
  | .feedInfrEsc => Sys2Proof.Machine.execFeedInfrEsc s
  | .feedInfrOther b => Sys2Proof.Machine.execFeedInfrOther b s
  | .feedEscpAny b => Sys2Proof.Machine.execFeedEscpAny b s
  | .pairDelim => Sys2Proof.Machine.execPairDelim s
  | .pairEsc => Sys2Proof.Machine.execPairEsc s
  | .lit v => Sys2Proof.Machine.execLit v s
  | .pairIll => Sys2Proof.Machine.execPairIll s

end Sys2Proof.Machine
end

