-- ==== Sys2Proof/Machine/Step.lean ====
section
/-! DEFINITION. Sys2Proof/Machine/Step.lean: one step of an instance: its host's next operation, executed as one atomic
transition (00_scope.md R14, R15). -/

namespace Sys2Proof.Machine

/-- One step: fetch and decode what the host presents next, then execute it. -/
def step (s : State) : Host.Outcome State Fault Refusal :=
  match s.fetch with
  | .ok (i, t) => exec i t
  | .error r => .refused r

/-- `s` with the word of an opcode-table row as the operation the host issues next (log entry 14). -/
def State.withFetchWord (s : State) (nbits w : Nat) : State := s.presentWord nbits w

end Sys2Proof.Machine
end

