-- ==== Sys2Proof/Machine/Instances.lean ====
section
/-! DEFINITION. Sys2Proof/Machine/Instances.lean: any number of instances side by side, one per connection, sharing nothing
(10_state.md R33, 60_exceptions.md R211). -/

namespace Sys2Proof.Machine

/-- The instances that exist, each with a state of its own. -/
abbrev Instances := List State

/-- A connection is accepted: a new instance in the reset state, with its own constants (R211, R220). -/
def Instances.accept (p : Params) (m : Instances) : Host.Outcome Instances Fault Refusal :=
  match State.create p with
  | .next s => .next (m ++ [s])
  | .fault r => .fault r
  | .refused r => .refused r

/-- A connection ends: its instance "is simply dropped", a partial frame in `BUF` with it (R33, R231). -/
def Instances.drop (k : Nat) (m : Instances) : Instances := m.eraseIdx k

/-- Instance `k` executes the operation its host issued. -/
def Instances.execAt (k : Nat) (i : Instr) (m : Instances) : Host.Outcome Instances Fault Refusal :=
  match m[k]? with
  | none => .refused .noSuchInstance
  | some s =>
    match exec i s with
    | .next t => .next (m.set k t)
    | .fault r => .fault r
    | .refused r => .refused r

/-- Instance `k` takes a step. -/
def Instances.stepAt (k : Nat) (m : Instances) : Host.Outcome Instances Fault Refusal :=
  match m[k]? with
  | none => .refused .noSuchInstance
  | some s =>
    match step s with
    | .next t => .next (m.set k t)
    | .fault r => .fault r
    | .refused r => .refused r

end Sys2Proof.Machine
end

