-- ==== Sys2Proof/Safety.lean ====
section
/-! DEFINITION. Sys2Proof/Safety.lean: the invariants of 10_state.md R31, what a run shows (R237), what counts as a run free
of the block's fault (R202), and the host's decision about a frame (R147). -/

namespace Sys2Proof

open Machine

/-- The state elements of the block itself (R20), without constants, working registers and the host's lists. -/
structure Block where
  state : AsmState
  buf : Bytes
  trunc : Bool
  ovf : Bool
  deriving DecidableEq, Repr

/-- What `STATE`, `BUF`, `TRUNC`, `OVF` of an instance are. -/
def Machine.State.block (s : State) : Block := { state := s.state, buf := s.buf, trunc := s.trunc, ovf := s.ovf }

/-- The invariants of R31, with P1 to P4 for the constants (R9) and R20's last sentence for an unbounded buffer. -/
structure Inv (s : State) : Prop where
  /-- R9 and R8's positive capacity. -/
  legal : s.params.legal = true
  /-- (I-a) -/
  resting : s.state ≠ .done
  /-- (I-b) -/
  scanEmpty : s.state = .scan → s.buf = [] ∧ s.trunc = false
  /-- (I-c) -/
  pendingMarker : s.state = .escp → s.trunc = true ∨ s.buf.getLast? = some s.params.esc
  /-- (I-d) -/
  bounded : ∀ n, s.params.bufCap = some n → s.len ≤ n
  /-- (I-e) -/
  truncated : s.trunc = true → s.ovf = true ∧ s.params.bufCap = some s.len
  /-- (I-f) -/
  delimAfterEsc : ∀ i, s.memRead i = some delim → 1 ≤ i ∧ s.memRead (i - 1) = some s.params.esc
  /-- R20: "With `BUF_CAP = INF` the elements `TRUNC` and `OVF` are constantly 0". -/
  unbounded : s.params.bufCap = none → s.trunc = false ∧ s.ovf = false

/-- The raw frames among an instance's results, oldest first: the first part of R237's observable result. -/
def framesReturned : List Result → List Bytes
  | [] => []
  | .frame (some f) :: rs => f :: framesReturned rs
  | .frame none :: rs => framesReturned rs
  | .frames fs :: rs => fs ++ framesReturned rs
  | .bytes _ :: rs => framesReturned rs
  | .byte _ :: rs => framesReturned rs
  | .bool _ :: rs => framesReturned rs

/-- A run in which the block recorded no fault: the premise of a claim about frames delivered (R202, R232). -/
def faultFree (s : State) : Bool := s.recordedFault == none

/-- Does the host pass a raw frame on: with `VERIFY_CHECKSUM`, only when `CHECK(UNESCAPE(f))` (R147). -/
def hostAccepts (p : Params) (f : Bytes) : Bool := !p.verifyChecksum || check (unescape p f)

/-- One FEED after another: the `STATE` each left and what each returned. -/
def feedTrace : Bytes → State → List (AsmState × Option Bytes)
  | [], _ => []
  | b :: w, s => ((feed b s).1.state, (feed b s).2) :: feedTrace w (feed b s).1

end Sys2Proof
end

