-- ==== Sys2Proof/Certificates/Slice0/Obligations.lean ====
section
/-! DEFINITION. Sys2Proof/Certificates/Slice0/Obligations.lean: the statements for the provers, each from the numbered rules of
spec/. The bytes, rows and loops of the rules are written out here a second time, from the spec and not through the model's
own definitions of them, so that a statement compares the two. -/

namespace Sys2Proof.Spec

open Sys2Proof.Machine

/-- `append(b)` as R107 writes it. -/
def appended (b : Byte) (s : State) : State :=
  match s.params.bufCap with
  | none => { s with buf := s.buf ++ [b] }
  | some n => if s.buf.length < n then { s with buf := s.buf ++ [b] } else { s with trunc := true, ovf := true }

/-- The state with a value returned to the host. -/
def returning (r : Result) (s : State) : State := { s with results := s.results ++ [r] }

/-- An operation that completes, returns a value and touches no state of the assembler; nothing is said of the working
registers, whose "value at the end of an operation is read by nothing afterwards" (R27). -/
def Returns (i : Instr) (s : State) (r : Result) : Prop :=
  ∃ t, exec i s = .next t ∧ t.results = s.results ++ [r] ∧ t.block = s.block ∧ t.params = s.params ∧ t.pending = s.pending

/-- Is a byte one of the two reserved values. -/
def reserved (p : Params) (b : Byte) : Bool := b == 0x7E || b == p.esc

/-- The escaped form of a byte as R64's table gives it. -/
def pairOf (p : Params) (b : Byte) : Bytes :=
  if b = 0x7E then [p.esc, p.code1] else if b = p.esc then [p.esc, p.code2] else [b]

/-- R125's while loop, with its index and its output, run for at most `fuel` rounds. -/
def unescapeLoop (p : Params) (t : Bytes) : Nat → Nat → Bytes → Bytes
  | 0, _, out => out
  | fuel + 1, i, out =>
    match t[i]? with
    | none => out
    | some b =>
      if b = p.esc ∧ t[i + 1]? = some p.code1 then unescapeLoop p t fuel (i + 2) (out ++ [0x7E])
      else if b = p.esc ∧ t[i + 1]? = some p.code2 then unescapeLoop p t fuel (i + 2) (out ++ [p.esc])
      else unescapeLoop p t fuel (i + 1) (out ++ [b])

/-- R123 (a) and (b): a well-formed sequence. -/
def WellFormed (p : Params) (t : Bytes) : Prop :=
  0x7E ∉ t ∧ ∀ i, t[i]? = some p.esc → t[i + 1]? = some p.code1 ∨ t[i + 1]? = some p.code2

/-- XOR of all bytes, from the right. -/
def xorAll : Bytes → Byte
  | [] => 0
  | b :: t => b ^^^ xorAll t

/-- Does a frame fit the accumulation buffer. -/
def fits (p : Params) (f : Bytes) : Bool :=
  match p.bufCap with
  | none => true
  | some n => f.length ≤ n

/-- FEED of `b` performs a row that appends: R104, R105 or R106. -/
def appends (b : Byte) (s : State) : Prop := s.state = .escp ∨ (s.state = .infr ∧ b ≠ 0x7E)

/-- The values of R32's table. -/
def ResetValues (t : State) : Prop :=
  t.state = .scan ∧ t.state.code = 0b00 ∧ t.buf = [] ∧ t.len = 0 ∧ t.trunc = false ∧ t.ovf = false ∧
    t.acc = 0x00 ∧ t.pend = false

/-- The operations that touch no state of the assembler: R45's list, and the codes of the escaped domain. -/
def pureOp : Instr → Bool
  | .idle | .escape _ | .unescape _ | .checksum _ | .check _ | .frame _ => true
  | .pairDelim | .pairEsc | .lit _ | .pairIll => true
  | .feed _ | .arst | .assembleAll _ | .symDelim | .symEsc | .symOther _ => false
  | .feedScanStart | .feedScanElse _ | .feedInfrStop | .feedInfrStart => false
  | .feedInfrEsc | .feedInfrOther _ | .feedEscpAny _ => false

end Sys2Proof.Spec

open Sys2Proof Sys2Proof.Machine Sys2Proof.Spec

/-! ## Reset, invariants, step -/

/-- R32: every element has its reset value after power-on, creation and ARST, and any operation may come first. -/
def Obligations.ResetGivesEveryElementItsValue : Prop :=
  ResetValues State.reset ∧
  (∀ p : Params, p.legal = true → ∃ t, State.create p = .next t ∧ t.params = p ∧ ResetValues t) ∧
  (∀ s : State, ∃ t, exec .arst s = .next t ∧ ResetValues t) ∧
  (∀ i : Instr, ∃ t, exec i State.reset = .next t)

/-- R31 at reset: the invariants hold of a fresh instance whatever its legal constants. -/
def Obligations.InvariantsHoldAtReset : Prop :=
  Inv State.reset ∧ ∀ p : Params, p.legal = true → Inv (State.fresh p)

/-- R31: the invariants hold after reset and every operation keeps them, whether executed or reached by a step. -/
def Obligations.EveryStepKeepsTheInvariants : Prop :=
  Inv State.reset ∧
  (∀ (i : Instr) (s t : State), Inv s → exec i s = .next t → Inv t) ∧
  (∀ s t : State, Inv s → step s = .next t → Inv t)

/-- A step runs the decoded instruction: log entries 1 and 2 (the host's list, an undriven input is IDLE), R118. -/
def Obligations.StepRunsTheDecodedInstruction : Prop :=
  ∀ s : State, s.params.legal = true →
    (s.pending = [] → step s = exec .idle s) ∧
    (∀ (k : Packet) (ks : List Packet) (i : Instr) (more : Option Packet),
      s.pending = k :: ks → decode s.params k = .ok (i, more) →
        step s = exec i { s with pending := more.toList ++ ks }) ∧
    (∀ (i : Instr) (k : Packet) (ks : List Packet),
      s.pending = k :: ks → i.wellFormed s.params = true → encode s.params i = some k →
        step s = exec i { s with pending := ks })

/-- R9, R214: constants that fail P1 to P4 (or a capacity of 0) are refused, when an instance is made and at every step; all
others are accepted. The rules refuse at configuration; the refusal at every step is the model's (log entry 3), and so is that
State.reset has an unbounded buffer and both host options on, which R8 leaves open (log entry 4). -/
def Obligations.ParametersFailingTheConstraintsAreRefused : Prop :=
  (∀ p : Params,
    (p.esc = 0x7E ∨ p.code1 = p.code2 ∨ p.code1 = 0x7E ∨ p.code2 = 0x7E ∨ p.code1 = p.esc ∨ p.code2 = p.esc ∨
      p.bufCap = some 0) →
    State.create p = .refused .illegalParameters ∧
    ∀ s : State, s.params = p → step s = .refused .illegalParameters) ∧
  (∀ p : Params,
    p.esc ≠ 0x7E → p.code1 ≠ p.code2 → p.code1 ≠ 0x7E → p.code2 ≠ 0x7E → p.code1 ≠ p.esc → p.code2 ≠ p.esc →
      p.bufCap ≠ some 0 → ∃ t, State.create p = .next t ∧ t.params = p) ∧
  (∃ t, State.create { esc := 0x7D, code1 := 0x02, code2 := 0x01, bufCap := none, verifyChecksum := true,
                       validateLength := true } = .next t ∧ t = State.reset)

/-- R223: two operations at once on one instance are refused, whatever the two are. -/
def Obligations.OverlappingOperationsAreRefused : Prop :=
  ∀ (s : State) (a b : BitVec 3) (ks : List Packet), s.params.legal = true → s.pending = .overlap a b :: ks →
    step s = .refused (.undecodable .overlappingOperations)

/-! ## Encodings -/

/-- The decoder inverts the encoder on every well-formed instruction, with every operand; the one row with no encoding is the
one R103 says no byte selects; and what the decoder answers is well-formed. -/
def Obligations.DecodeInvertsEncode : Prop :=
  ∀ p : Params, p.legal = true →
    (∀ i : Instr, i.wellFormed p = true → ∃ k, encode p i = some k ∧ decode p k = .ok (i, none)) ∧
    (∀ i : Instr, encode p i = none ↔ i = .feedInfrStart) ∧
    (∀ (k : Packet) (i : Instr) (more : Option Packet), decode p k = .ok (i, more) → i.wellFormed p = true)

/-- R70: the table of the eight operation codes, none reserved. That the packet carries a byte and a sequence beside the code, and
that an operation reads only the one its operand form names, is the model's (log entry 12). -/
def Obligations.OperationSelectCodes : Prop :=
  ∀ (p : Params) (b : Byte) (x : Bytes),
    decode p (.op3 0b000 b x) = .ok (.idle, none) ∧
    decode p (.op3 0b001 b x) = .ok (.feed b, none) ∧
    decode p (.op3 0b010 b x) = .ok (.escape x, none) ∧
    decode p (.op3 0b011 b x) = .ok (.unescape x, none) ∧
    decode p (.op3 0b100 b x) = .ok (.checksum x, none) ∧
    decode p (.op3 0b101 b x) = .ok (.check x, none) ∧
    decode p (.op3 0b110 b x) = .ok (.frame x, none) ∧
    decode p (.op3 0b111 b x) = .ok (.arst, none) ∧
    ∀ op : BitVec 3, ∃ i, decode p (.op3 op b x) = .ok (i, none)

/-- Words of the opcode table written out bit by bit from their encodings (how a bare word is told apart: log entry 14). -/
def Obligations.TableWordsDecodeToTheirRows : Prop :=
  decodeTableWord 8 0b00000000 = some .idle ∧
  decodeTableWord 8 0b00000111 = some .arst ∧
  decodeTableWord 8 0b00000100 = some (.checksum []) ∧
  decodeTableWord 8 0b00000110 = some (.frame []) ∧
  decodeTableWord 8 0b01111110 = some .symDelim ∧
  decodeTableWord 8 0b01111101 = some .symEsc ∧
  decodeTableWord 16 0b0111110100000010 = some .pairDelim ∧
  decodeTableWord 16 0b0111110100000001 = some .pairEsc

/-- R62: the three distinguishable categories, and that 254 patterns are OTHER. -/
def Obligations.ByteCategoriesPartitionTheBytes : Prop :=
  ∀ p : Params, p.legal = true →
    decode p (.sym8 0b01111110) = .ok (.symDelim, none) ∧
    decode p (.sym8 p.esc) = .ok (.symEsc, none) ∧
    (∀ b : Byte, b ≠ 0x7E → b ≠ p.esc → decode p (.sym8 b) = .ok (.symOther b, none)) ∧
    (Finset.univ.filter fun b : Byte => classify p b = .other).card = 254

/-- R63, R103: in IN-FRAME the STOP test comes first. With one value for START and STOP the START row is selected by no state
and byte; with two values the same table selects it. -/
def Obligations.StopTestComesBeforeStartTest : Prop :=
  (∀ (d esc b : Byte) (st : AsmState), selectRow d d esc st b ≠ some .infrStart) ∧
  (∀ start stop esc b : Byte, selectRow start stop esc .infr b = some .infrStart ↔ b = start ∧ b ≠ stop) ∧
  (∀ start stop esc : Byte, selectRow start stop esc .infr stop = some .infrStop) ∧
  (∀ s : State, exec .feedInfrStart s = .next s)

/-- R65: the scan cuts an escaped sequence into codes whose bytes, joined, are the sequence again, whose plain bytes, joined,
are what UNESCAPE gives, and whose head is the code the decoder reads. -/
def Obligations.CodesPartitionTheEscapedSequence : Prop :=
  ∀ p : Params, p.legal = true →
    (∀ t : Bytes, (codes p t).flatMap (Code.escaped p) = t) ∧
    (∀ t : Bytes, (codes p t).flatMap (Code.plain p) = unescape p t) ∧
    (∀ (b : Byte) (t : Bytes), codes p (b :: t) = (nextCode p b t).1 :: codes p (nextCode p b t).2) ∧
    (∀ (b : Byte) (t : Bytes),
      ∃ more, decode p (.escaped b t) = .ok ((nextCode p b t).1.instr, more) ∧
        (b ≠ p.esc → (nextCode p b t).1 = .lit b) ∧
        (b = p.esc → t.head? = some p.code1 → (nextCode p b t).1 = .pairDelim) ∧
        (b = p.esc → t.head? = some p.code2 → (nextCode p b t).1 = .pairEsc) ∧
        (b = p.esc → t.head? ≠ some p.code1 → t.head? ≠ some p.code2 →
          (nextCode p b t) = (.pairIll, t)))

/-- R21: the encoding of `STATE`. R25: the status outputs are the state elements. -/
def Obligations.StatusOutputsShowTheStateElements : Prop :=
  AsmState.scan.code = 0b00 ∧ AsmState.infr.code = 0b01 ∧ AsmState.escp.code = 0b10 ∧ AsmState.done.code = 0b11 ∧
  (∀ v : AsmState, AsmState.ofCode v.code = v) ∧
  (∀ s : State, s.status = { state := s.state.code, len := s.len, trunc := s.trunc, ovf := s.ovf }) ∧
  State.reset.status = { state := 0b00, len := 0, trunc := false, ovf := false }

/-! ## FEED -/

/-- R101: the rows from SCANNING-FOR-START. -/
def Obligations.FeedFromScan : Prop :=
  ∀ (s : State) (b : Byte), s.state = .scan →
    exec (.feed b) s =
      .next (if b = 0x7E then returning (.frame none) { s with buf := [], trunc := false, state := .infr }
             else returning (.frame none) s)

/-- R102: a delimiter in IN-FRAME closes the frame and emits it, unless it is empty or has lost a byte. -/
def Obligations.FeedOfStopClosesTheFrame : Prop :=
  ∀ s : State, s.state = .infr →
    exec (.feed 0x7E) s =
      .next (returning (.frame (if s.buf ≠ [] ∧ s.trunc = false then some s.buf else none))
        { s with buf := [], trunc := false, state := .scan })

/-- R104 with R107: the escape marker in IN-FRAME is appended and arms ESCAPE-PENDING, stored or not. -/
def Obligations.FeedOfMarkerArmsEscapePending : Prop :=
  ∀ s : State, s.params.legal = true → s.state = .infr →
    exec (.feed s.params.esc) s =
      .next (returning (.frame none) { appended s.params.esc s with state := .escp })

/-- R105 with R107: any other byte in IN-FRAME is appended. -/
def Obligations.FeedOfOtherByteAppends : Prop :=
  ∀ (s : State) (b : Byte), s.state = .infr → b ≠ 0x7E → b ≠ s.params.esc →
    exec (.feed b) s = .next (returning (.frame none) (appended b s))

/-- R106 with R107: in ESCAPE-PENDING every byte is appended, a delimiter and a marker included. -/
def Obligations.FeedInEscapePendingAppendsAnyByte : Prop :=
  ∀ (s : State) (b : Byte), s.state = .escp →
    exec (.feed b) s = .next (returning (.frame none) { appended b s with state := .infr })

/-- FEED in a `State` value whose `STATE` is DONE, which no run reaches (R28): the model's choice, log entry 5. The pending
emission happens, no byte is consumed by it, and the byte is met in SCAN. -/
def Obligations.FeedInDoneFirstCompletesTheFrame : Prop :=
  ∀ (s : State) (b : Byte), s.state = .done →
    exec (.feed b) s =
      .next (returning (.frame (if s.buf ≠ [] ∧ s.trunc = false then some s.buf else none))
        { s with buf := [], trunc := false, state := if b = 0x7E then .infr else .scan })

/-- R108: FEED returns a frame in one situation only, and what it returns is not empty and fits the buffer. -/
def Obligations.FeedReturnsAFrameExactlyAtAClosingDelimiter : Prop :=
  ∀ (s : State) (b : Byte), Inv s →
    ∃ t r, exec (.feed b) s = .next t ∧ t.results = s.results ++ [.frame r] ∧
      (∀ f : Bytes, r = some f ↔ s.state = .infr ∧ b = 0x7E ∧ s.buf ≠ [] ∧ s.trunc = false ∧ f = s.buf) ∧
      (∀ f : Bytes, r = some f → f ≠ [] ∧ fits s.params f = true)

/-- R100: FEED performs the row its table selects; the same row presented by itself does the same. -/
def Obligations.FeedPerformsTheSelectedRow : Prop :=
  ∀ (s : State) (b : Byte), s.state ≠ .done →
    ∃ row t, selectRow 0x7E 0x7E s.params.esc s.state b = some row ∧ exec (.feed b) s = .next t ∧
      exec (row.instr b) s = .next t

/-- R101, R102, R103: the rows from SCAN and the delimiter row of INFR as instructions. In another state, or with another
byte, a row is not selected and nothing happens (log entry 9). -/
def Obligations.DelimiterRowsAsInstructions : Prop :=
  ∀ s : State,
    (s.state = .scan → exec .feedScanStart s =
      .next (returning (.frame none) { s with buf := [], trunc := false, state := .infr })) ∧
    (s.state ≠ .scan → exec .feedScanStart s = .next s) ∧
    (∀ b, s.state = .scan → b ≠ 0x7E → exec (.feedScanElse b) s = .next (returning (.frame none) s)) ∧
    (∀ b, ¬(s.state = .scan ∧ b ≠ 0x7E) → exec (.feedScanElse b) s = .next s) ∧
    (s.state = .infr → exec .feedInfrStop s =
      .next (returning (.frame (if s.buf ≠ [] ∧ s.trunc = false then some s.buf else none))
        { s with buf := [], trunc := false, state := .scan })) ∧
    (s.state ≠ .infr → exec .feedInfrStop s = .next s) ∧
    performRow .infrStart 0x7E s = ({ s with buf := [], trunc := false, state := .infr }, none) ∧
    exec .feedInfrStart s = .next s

/-- R104, R105, R106: the appending rows as instructions, and that a row not selected does nothing (log entry 9). -/
def Obligations.AppendingRowsAsInstructions : Prop :=
  ∀ s : State, s.params.legal = true →
    (s.state = .infr → exec .feedInfrEsc s =
      .next (returning (.frame none) { appended s.params.esc s with state := .escp })) ∧
    (s.state ≠ .infr → exec .feedInfrEsc s = .next s) ∧
    (∀ b, s.state = .infr → b ≠ 0x7E → b ≠ s.params.esc →
      exec (.feedInfrOther b) s = .next (returning (.frame none) (appended b s))) ∧
    (∀ b, ¬(s.state = .infr ∧ b ≠ 0x7E ∧ b ≠ s.params.esc) → exec (.feedInfrOther b) s = .next s) ∧
    (∀ b, s.state = .escp → exec (.feedEscpAny b) s =
      .next (returning (.frame none) { appended b s with state := .infr })) ∧
    (∀ b, s.state ≠ .escp → exec (.feedEscpAny b) s = .next s)

/-- R62: the arrival of a classified byte is FEED of it (log entry 8). -/
def Obligations.SymbolArrivalIsFeed : Prop :=
  ∀ s : State,
    (∃ t, exec .symDelim s = .next t ∧ exec (.feed 0x7E) s = .next t) ∧
    (∃ t, exec .symEsc s = .next t ∧ exec (.feed s.params.esc) s = .next t) ∧
    (∀ b, ∃ t, exec (.symOther b) s = .next t ∧ exec (.feed b) s = .next t)

/-- R202: the append to a full buffer records BufferOverflow and goes on; a truncated frame stays as it is until its closing
delimiter drops it whole; with BUF_CAP = INF neither flag is ever set; OVF stays until ARST. -/
def Obligations.OverflowIsRecordedAndTheFrameDroppedWhole : Prop :=
  (∀ (s : State) (b : Byte), Inv s → s.params.bufCap = some s.len → s.state = .escp ∨ (s.state = .infr ∧ b ≠ 0x7E) →
    ∃ t, exec (.feed b) s = .next t ∧ t.buf = s.buf ∧ t.trunc = true ∧ t.ovf = true ∧
      t.recordedFault = some .bufferOverflow ∧ Fault.bufferOverflow.number = 1 ∧
      t.results = s.results ++ [.frame none] ∧
      t.state = (if s.state = .infr ∧ b = s.params.esc then .escp else .infr)) ∧
  (∀ (s : State) (b : Byte), Inv s → s.trunc = true →
    ∃ t, exec (.feed b) s = .next t ∧ t.results = s.results ++ [.frame none] ∧ t.ovf = true ∧
      (if s.state = .infr ∧ b = 0x7E then t.state = .scan ∧ t.buf = [] ∧ t.trunc = false
       else t.trunc = true ∧ t.buf = s.buf)) ∧
  (∀ (i : Instr) (s : State), Inv s → s.params.bufCap = none →
    ∃ t, exec i s = .next t ∧ t.trunc = false ∧ t.ovf = false) ∧
  (∀ (i : Instr) (s t : State), exec i s = .next t → i ≠ .arst → s.ovf = true → t.ovf = true) ∧
  (∀ s : State, ∃ t, exec .arst s = .next t ∧ t.ovf = false)

/-- R24: FEED sets `TRUNC` and `OVF` exactly when a byte that should be appended finds `LEN == BUF_CAP`, at the same moment;
`TRUNC` is cleared when a frame is opened (R101) and when a frame is closed (R102); `OVF` is cleared by ARST alone; the operations
that touch no state of the assembler write neither. -/
def Obligations.FlagsAreWrittenAsTheRuleSays : Prop :=
  (∀ (i : Instr) (s t : State), exec i s = .next t → i ≠ .arst → s.ovf = true → t.ovf = true) ∧
  (∀ (i : Instr) (s t : State), exec i s = .next t → pureOp i = true → t.ovf = s.ovf ∧ t.trunc = s.trunc) ∧
  (∀ (b : Byte) (s t : State), exec (.feed b) s = .next t → s.ovf = false → t.ovf = true →
    t.trunc = true ∧ s.params.bufCap ≠ none) ∧
  (∀ (b : Byte) (s t : State), exec (.feed b) s = .next t → s.trunc = false → t.trunc = true → t.ovf = true) ∧
  (∀ (b : Byte) (s : State), Inv s → ∃ t, exec (.feed b) s = .next t ∧
    (t.trunc = true ↔ appends b s ∧ s.params.bufCap = some s.len) ∧
    (t.ovf = true ↔ s.ovf = true ∨ appends b s ∧ s.params.bufCap = some s.len)) ∧
  (∀ s : State, s.state = .scan ∨ s.state = .infr →
    ∃ t, exec (.feed 0x7E) s = .next t ∧ t.trunc = false ∧ t.ovf = s.ovf) ∧
  (∀ s : State, ∃ t, exec .arst s = .next t ∧ t.ovf = false ∧ t.trunc = false)

/-- R110: ARST, that it leaves the constants, and that no other operation clears `OVF`. That it puts `ACC` and `PEND` at their
values of R32's table, though R110's pseudocode writes neither, is the model's (log entry 6), and so is that it leaves the two
lists that are the host's (log entry 1). -/
def Obligations.ArstResetsTheInstance : Prop :=
  ∀ s : State,
    exec .arst s =
      .next { s with state := .scan, buf := [], trunc := false, ovf := false, acc := 0, pend := false } ∧
    (∀ p : Params, exec .arst (State.fresh p) = .next (State.fresh p)) ∧
    (∀ (i : Instr) (t : State), i ≠ .arst → exec i s = .next t → s.ovf = true → t.ovf = true)

/-- R118: IDLE changes nothing and returns nothing. -/
def Obligations.IdleChangesNothing : Prop :=
  ∀ s : State, exec .idle s = .next s

/-! ## Streams -/

/-- R111: ASSEMBLE_ALL feeds the bytes in order and collects the frames, and how the stream is cut never matters. -/
def Obligations.AssembleAllFeedsInOrderAndChunkingDoesNotMatter : Prop :=
  (∀ s : State, exec (.assembleAll []) s = .next (returning (.frames []) s)) ∧
  (∀ (s : State) (b : Byte) (w : Bytes), ∃ t r u fs,
    exec (.feed b) s = .next (returning (.frame r) t) ∧ exec (.assembleAll w) t = .next (returning (.frames fs) u) ∧
      exec (.assembleAll (b :: w)) s = .next (returning (.frames (r.toList ++ fs)) u)) ∧
  (∀ (s : State) (w1 w2 : Bytes), ∃ t u fs gs,
    exec (.assembleAll w1) s = .next (returning (.frames fs) t) ∧
      exec (.assembleAll w2) t = .next (returning (.frames gs) u) ∧
      exec (.assembleAll (w1 ++ w2)) s = .next (returning (.frames (fs ++ gs)) u))

/-- R73: ASSEMBLE_ALL is its expansion. Stepping through the |w| queued FEEDs leaves the block as ASSEMBLE_ALL leaves it, takes
exactly those operations from the host's list, and has returned the same frames. -/
def Obligations.QueuedFeedsRunAsAssembleAll : Prop :=
  ∀ (s : State) (w : Bytes) (ks : List Packet), s.params.legal = true →
    ∃ (t u : State) (rs : List Result) (fs : List Bytes),
      Sys2Proof.core.run w.length { s with pending := w.map (fun b => Packet.op3 0b001 b []) ++ ks } = .next t ∧
      exec (.assembleAll w) s = .next u ∧
      t.block = u.block ∧ t.params = s.params ∧ t.pending = ks ∧
      t.results = s.results ++ rs ∧ rs.length = w.length ∧
      u.results = s.results ++ [.frames fs] ∧ framesReturned rs = fs

/-- R65, R125: stepping through an escaped sequence, one step for each of its codes, returns the plain bytes of each code in
turn, and all of them together are UNESCAPE of the sequence (log entry 10). -/
def Obligations.EscapedSequenceRunsAsUnescape : Prop :=
  ∀ (s : State) (b : Byte) (rest : Bytes) (ks : List Packet), s.params.legal = true →
    ∃ cs : List Bytes,
      cs = (codes s.params (b :: rest)).map (Code.plain s.params) ∧ cs.flatten = unescape s.params (b :: rest) ∧
      Sys2Proof.core.run cs.length { s with pending := .escaped b rest :: ks } =
        .next { s with pending := ks, results := s.results ++ cs.map Result.bytes }

/-- R114, R113: the document's resynchronisation stream from SCAN, under the conditions the spec narrows it to (C8), and what the
rule says of the two cases these shut out. `b == ESC`: one frame, closed by the second START, and the last STOP opens; the rule's
result needs that `a` and `c` are no marker either. `d == ESC`: the final STOP is appended and there is no second frame. -/
def Obligations.ResynchronisationStreamYieldsTwoFrames : Prop :=
  ∀ (s : State) (a b c d : Byte), s.params.legal = true → s.state = .scan →
    a ≠ 0x7E → b ≠ 0x7E → c ≠ 0x7E → d ≠ 0x7E →
    ((∀ n, s.params.bufCap = some n → 2 ≤ n) → b ≠ s.params.esc → d ≠ s.params.esc →
      exec (.assembleAll [0x7E, a, b, 0x7E, c, 0x7E, d, 0x7E]) s =
        .next (returning (.frames [[a, b], [d]]) { s with state := .scan, buf := [], trunc := false })) ∧
    ((∀ n, s.params.bufCap = some n → 2 ≤ n) → b ≠ s.params.esc → d = s.params.esc →
      exec (.assembleAll [0x7E, a, b, 0x7E, c, 0x7E, d, 0x7E]) s =
        .next (returning (.frames [[a, b]]) { s with state := .infr, buf := [s.params.esc, 0x7E], trunc := false })) ∧
    ((∀ n, s.params.bufCap = some n → 4 ≤ n) → b = s.params.esc → a ≠ s.params.esc → c ≠ s.params.esc →
      exec (.assembleAll [0x7E, a, b, 0x7E, c, 0x7E, d, 0x7E]) s =
        .next (returning (.frames [[a, s.params.esc, 0x7E, c]]) { s with state := .infr, buf := [], trunc := false }))

/-- R227: a delimiter straight after an escape marker is swallowed: the emitted frame contains it and runs on to the next
delimiter. -/
def Obligations.DelimiterAfterMarkerIsSwallowed : Prop :=
  ∀ (s : State) (a c : Byte), s.params.legal = true → s.state = .scan → (∀ n, s.params.bufCap = some n → 4 ≤ n) →
    a ≠ 0x7E → a ≠ s.params.esc → c ≠ 0x7E → c ≠ s.params.esc →
    exec (.assembleAll [0x7E, a, s.params.esc, 0x7E, c, 0x7E]) s =
      .next (returning (.frames [[a, s.params.esc, 0x7E, c]]) { s with state := .scan, buf := [], trunc := false })

/-- R116: the path of STATE does not depend on BUF_CAP; the frames of a finite buffer are those of the unbounded one, at the
same FEEDs, less the ones that do not fit; and while no overflow happened the two agree. -/
def Obligations.StatePathDoesNotDependOnCapacity : Prop :=
  ∀ (s : State) (n : Nat) (w : Bytes), s.buf.length ≤ n → s.trunc = false → s.state ≠ .done →
    let unbounded : State := { s with params := { s.params with bufCap := none } }
    let finite : State := { s with params := { s.params with bufCap := some n } }
    feedTrace w finite = (feedTrace w unbounded).map (fun x => (x.1, x.2.filter fun f => decide (f.length ≤ n))) ∧
    (∀ t, exec (.assembleAll w) finite = .next t → t.ovf = false → feedTrace w finite = feedTrace w unbounded)

/-! ## Escape codec -/

/-- R120, R121, R122: ESCAPE is the concatenation of the bytes' escaped forms and touches no state, so a payload may be escaped
in pieces cut anywhere. -/
def Obligations.EscapeReplacesByteByByte : Prop :=
  (∀ (s : State) (x : Bytes),
    exec (.escape x) s = .next (returning (.bytes (x.flatMap (pairOf s.params))) s)) ∧
  (∀ (s : State) (x y : Bytes), ∃ e f,
    exec (.escape x) s = .next (returning (.bytes e) s) ∧
    exec (.escape y) s = .next (returning (.bytes f) s) ∧
    exec (.escape (x ++ y)) s = .next (returning (.bytes (e ++ f)) s))

/-- R123: no delimiter in an escaped sequence, every marker followed by a code, its length, no pair inside a pair, and every
well-formed sequence is an escaped one. -/
def Obligations.EscapedSequencesAreTheWellFormedOnes : Prop :=
  ∀ p : Params, p.legal = true →
    (∀ x : Bytes, WellFormed p (escape p x) ∧
      (escape p x).getLast? ≠ some p.esc ∧
      x.length ≤ (escape p x).length ∧ (escape p x).length ≤ 2 * x.length ∧
      (escape p x).length = x.length + x.countP (reserved p) ∧
      (∀ i, (escape p x)[i]? = some p.esc → (escape p x)[i + 1]? ≠ some p.esc)) ∧
    (∀ t : Bytes, WellFormed p t ↔ ∃ x, escape p x = t)

/-- R125: UNESCAPE returns what the rule's loop computes, and touches no state of the assembler. -/
def Obligations.UnescapeComputesTheScan : Prop :=
  ∀ (s : State) (t : Bytes),
    Returns (.unescape t) s (.bytes (unescapeLoop s.params t t.length 0 []))

/-- R126: the byte-at-a-time unescaper with its register PEND, step by step; it emits exactly UNESCAPE and leaves PEND at 0, and UNESCAPE
distributes over a cut at which PEND is 0 but not over every cut. -/
def Obligations.StreamingUnescapeAgrees : Prop :=
  ∀ s : State, s.params.legal = true → s.pend = false →
    (∀ t : Bytes,
      (State.unescPuts t s).2 ++ (State.unescPuts t s).1.unescEnd.2 = unescape s.params t ∧
      (State.unescPuts t s).1.unescEnd.1 = s) ∧
    (∀ x y : Bytes, (State.unescPuts x s).1.pend = false →
      unescape s.params (x ++ y) = unescape s.params x ++ unescape s.params y) ∧
    unescape s.params [s.params.esc] ++ unescape s.params [s.params.code1] = [s.params.esc, s.params.code1] ∧
    unescape s.params [s.params.esc, s.params.code1] = [0x7E] ∧
    (∀ b : Byte, s.unescPut b = if b = s.params.esc then ({ s with pend := true }, []) else (s, [b])) ∧
    (∀ b : Byte, State.unescPut b { s with pend := true } =
      if b = s.params.code1 then (s, [0x7E])
      else if b = s.params.code2 then (s, [s.params.esc])
      else if b = s.params.esc then ({ s with pend := true }, [s.params.esc])
      else (s, [s.params.esc, b])) ∧
    s.unescEnd = (s, []) ∧ State.unescEnd { s with pend := true } = (s, [s.params.esc])

/-- R127: an ill-formed pair and a raw delimiter are copied, the scan goes on at the next byte, and nothing is recorded. -/
def Obligations.IllFormedPairsPassThrough : Prop :=
  ∀ (s : State) (c : Byte) (y : Bytes), s.params.legal = true → c ≠ s.params.code1 → c ≠ s.params.code2 →
    Returns (.unescape [s.params.esc]) s (.bytes [s.params.esc]) ∧
    (∃ u, Returns (.unescape (c :: y)) s (.bytes u) ∧
      Returns (.unescape (s.params.esc :: c :: y)) s (.bytes (s.params.esc :: u))) ∧
    (∃ u, Returns (.unescape y) s (.bytes u) ∧ Returns (.unescape (0x7E :: y)) s (.bytes (0x7E :: u)))

/-- R124, R128: the two ordered replacements of `escape`, and those of `unescape`, give the same result as the single passes; in
the opposite order they do not. -/
def Obligations.TwoPassFormsAgreeInTheStatedOrder : Prop :=
  ∀ p : Params, p.legal = true →
    (∀ x : Bytes, escapeTwoPass p x = escape p x) ∧
    replaceByte p.esc [p.esc, p.code2] (replaceByte 0x7E [p.esc, p.code1] [0x7E]) = [p.esc, p.code2, p.code1] ∧
    escape p [0x7E] = [p.esc, p.code1] ∧
    (∀ t : Bytes, unescapeTwoPass p t = unescape p t) ∧
    replacePair p.esc p.code1 0x7E (replacePair p.esc p.code2 p.esc [p.esc, p.code2, p.code1]) = [0x7E] ∧
    unescape p [p.esc, p.code2, p.code1] = [p.esc, p.code1]

/-- R129: ESCAPE and then UNESCAPE gives every byte sequence back, from every state. -/
def Obligations.UnescapeInvertsEscape : Prop :=
  ∀ (s : State) (x : Bytes), s.params.legal = true → ∃ e : Bytes,
    exec (.escape x) s = .next (returning (.bytes e) s) ∧
    Returns (.unescape e) s (.bytes x)

/-- R130, R131: ESCAPE after UNESCAPE is the identity exactly on the well-formed sequences; ESCAPE is one-to-one; UNESCAPE is
onto and not one-to-one; and neither transform may be applied twice. -/
def Obligations.EscapeIsABijectionOntoTheWellFormed : Prop :=
  ∀ p : Params, p.legal = true →
    (∀ t : Bytes, escape p (unescape p t) = t ↔ WellFormed p t) ∧
    (∀ t : Bytes, escapedForm p t = true ↔ WellFormed p t) ∧
    (∀ x y : Bytes, escape p x = escape p y → x = y) ∧
    (∀ x : Bytes, ∃ t, unescape p t = x) ∧
    unescape p [p.esc, p.esc, p.code1] = [p.esc, 0x7E] ∧
    unescape p [p.esc, p.code2, p.esc, p.code1] = [p.esc, 0x7E] ∧
    unescape p (unescape p [p.esc, p.code2, p.code1]) = [0x7E] ∧
    unescape p [p.esc, p.code2, p.code1] = [p.esc, p.code1] ∧
    escape p (escape p [0x7E]) = [p.esc, p.code2, p.code1] ∧ escape p [0x7E] = [p.esc, p.code1]

/-- R64, R66: what each code of the escaped domain stands for, as an instruction (log entry 10). -/
def Obligations.EscapedCodesReturnTheirPlainBytes : Prop :=
  ∀ s : State,
    exec .pairDelim s = .next (returning (.bytes [0x7E]) s) ∧
    exec .pairEsc s = .next (returning (.bytes [s.params.esc]) s) ∧
    (∀ v, exec (.lit v) s = .next (returning (.bytes [v]) s)) ∧
    exec .pairIll s = .next (returning (.bytes [s.params.esc]) s)

/-! ## Checksum and framer -/

/-- R140: CHECKSUM is the XOR of all bytes, 0 for the empty sequence, and touches no state of the assembler. -/
def Obligations.ChecksumIsTheXorOfAllBytes : Prop :=
  ∀ (s : State) (q : Bytes), Returns (.checksum q) s (.byte (xorAll q))

/-- R141: the byte-at-a-time generator with its register ACC gives CHECKSUM, and each bit is the parity of that bit. -/
def Obligations.StreamingChecksumAgreesAndBitsAreParities : Prop :=
  ∀ (s : State) (q : Bytes),
    (q.foldl State.xabs s.xclr).xrd = checksum q ∧
    (q.foldl State.xabs s.xclr) = { s with acc := checksum q } ∧
    s.xclr = { s with acc := 0x00 } ∧ (∀ b : Byte, s.xabs b = { s with acc := s.acc ^^^ b }) ∧ s.xrd = s.acc ∧
    (∀ k, k < 8 → (checksum q).getLsbD k = decide (q.countP (fun b => b.getLsbD k) % 2 = 1))

/-- R142: CHECKSUM over a concatenation, under reordering, and under insertion of bytes that cancel. -/
def Obligations.ChecksumLawsForSequences : Prop :=
  (∀ x y : Bytes, checksum (x ++ y) = checksum x ^^^ checksum y) ∧
  (∀ x y : Bytes, x.Perm y → checksum x = checksum y) ∧
  (∀ x y : Bytes, checksum (x ++ 0x00 :: y) = checksum (x ++ y)) ∧
  (∀ (x y : Bytes) (b : Byte) (n : Nat), checksum (x ++ List.replicate (2 * n) b ++ y) = checksum (x ++ y))

/-- R145: appending the checksum gives 0, and a non-empty sequence sums to 0 only when its last byte is the checksum of the
bytes before it. -/
def Obligations.AppendedChecksumSumsToZero : Prop :=
  (∀ q : Bytes, checksum (q ++ [checksum q]) = 0x00) ∧
  (∀ u : Bytes, u ≠ [] → (checksum u = 0x00 ↔ u.getLast? = some (checksum u.dropLast)))

/-- R146: CHECK compares the checksum of all bytes but the last with the last; equivalently, a non-empty sequence sums to 0. -/
def Obligations.CheckComparesTheTrailingByte : Prop :=
  ∀ s : State,
    Returns (.check []) s (.bool false) ∧
    (∀ (q : Bytes) (c : Byte), Returns (.check (q ++ [c])) s (.bool (xorAll q == c))) ∧
    (∀ u : Bytes, u ≠ [] → Returns (.check u) s (.bool (xorAll u == 0x00)))

/-- R148: a change of one byte is detected; the changes CHECK cannot see. -/
def Obligations.CheckDetectsOneChangedByteAndNoReordering : Prop :=
  (∀ (u : Bytes) (i : Nat) (b v : Byte), check u = true → u[i]? = some b → v ≠ b → check (u.set i v) = false) ∧
  (∀ u v : Bytes, u.Perm v → check u = check v) ∧
  (∀ (u : Bytes) (i j : Nat) (b c m : Byte), i ≠ j → u[i]? = some b → u[j]? = some c →
    check ((u.set i (b ^^^ m)).set j (c ^^^ m)) = check u) ∧
  (∀ x y : Bytes, x ++ y ≠ [] → check (x ++ 0x00 :: y) = check (x ++ y)) ∧
  (∀ (x y z : Bytes) (b : Byte), x ++ y ++ z ≠ [] → check (x ++ b :: (y ++ b :: z)) = check (x ++ y ++ z))

/-- R160, R161: checksum, then escape, then delimit. -/
def Obligations.FrameIsChecksumThenEscapeThenDelimit : Prop :=
  ∀ (s : State) (q : Bytes),
    Returns (.frame q) s (.bytes ([0x7E] ++ (q ++ [xorAll q]).flatMap (pairOf s.params) ++ [0x7E]))

/-- R162: the shape of a framed sequence. -/
def Obligations.FramedSequenceShape : Prop :=
  ∀ (p : Params) (q : Bytes), p.legal = true →
    ∃ e : Bytes, frame p q = [0x7E] ++ e ++ [0x7E] ∧ WellFormed p e ∧
      (∀ i, (frame p q)[i]? = some 0x7E → i = 0 ∨ i + 1 = (frame p q).length) ∧
      q.length + 3 ≤ (frame p q).length ∧ (frame p q).length ≤ 2 * q.length + 4 ∧
      (frame p q).length = q.length + 3 + (q ++ [checksum q]).countP (reserved p) ∧
      3 ≤ (frame p q).length ∧ frame p q ≠ [0x7E, 0x7E]

/-- R163: what FRAME makes, ASSEMBLE_ALL takes apart: from SCAN, with a buffer large enough, one raw frame comes back, it
unescapes to the payload with its checksum, CHECK accepts it, and the assembler is in SCAN with an empty buffer. -/
def Obligations.AssembleAllRecoversWhatFrameMade : Prop :=
  ∀ (s : State) (q : Bytes), s.params.legal = true → s.state = .scan →
    fits s.params (escape s.params (q ++ [checksum q])) = true →
    ∃ w f : Bytes,
      Returns (.frame q) s (.bytes w) ∧
      f = escape s.params (q ++ [checksum q]) ∧
      exec (.assembleAll w) s =
        .next (returning (.frames [f]) { s with state := .scan, buf := [], trunc := false }) ∧
      unescape s.params f = q ++ [checksum q] ∧ check (unescape s.params f) = true ∧
      (unescape s.params f).dropLast = q

/-- R164: frames one after another with any gaps that hold no delimiter: every frame that fits comes back, in order. -/
def Obligations.ConcatenatedFramesComeBackInOrder : Prop :=
  ∀ (s : State) (gqs : List (Bytes × Bytes)) (tail : Bytes), s.params.legal = true → s.state = .scan →
    (∀ x ∈ gqs, 0x7E ∉ x.1) → 0x7E ∉ tail →
    ∃ t, exec (.assembleAll (gqs.flatMap (fun x => x.1 ++ frame s.params x.2) ++ tail)) s = .next t ∧
      t.state = .scan ∧
      t.results = s.results ++
        [.frames ((gqs.map fun x => escape s.params (x.2 ++ [checksum x.2])).filter (fits s.params))]

/-- R147: the host's decision is its own: with VERIFY_CHECKSUM off every frame passes; on, exactly those CHECK accepts, and
every frame FRAME makes is among them. -/
def Obligations.HostAcceptsWhatFrameMade : Prop :=
  ∀ p : Params, p.legal = true →
    (p.verifyChecksum = false → ∀ f, hostAccepts p f = true) ∧
    (p.verifyChecksum = true → ∀ f, hostAccepts p f = check (unescape p f)) ∧
    (∀ q : Bytes, hostAccepts p (escape p (q ++ [checksum q])) = true)

/-! ## Frames and whole-machine rules -/

/-- R200, R206: every operation completes from every state, the constants and what the host has yet to issue are left, and
(R53) what was returned before is never changed. -/
def Obligations.EveryOperationCompletes : Prop :=
  ∀ (i : Instr) (s : State), ∃ t rs, exec i s = .next t ∧ t.params = s.params ∧ t.pending = s.pending ∧
    t.results = s.results ++ rs

/-- R45, R166: the operations that touch no state of the assembler: every element of the block and every byte of BUF is
unchanged; the working registers are as before or at their initial value. -/
def Obligations.PureOperationsLeaveTheAssembler : Prop :=
  ∀ (i : Instr) (s : State), pureOp i = true →
    ∃ t, exec i s = .next t ∧ t.block = s.block ∧ t.params = s.params ∧ t.pending = s.pending ∧
      (∀ a, t.memRead a = s.memRead a) ∧
      (t.acc = s.acc ∧ t.pend = s.pend ∨ t.acc = 0 ∧ t.pend = false) ∧
      (s.acc = 0 → s.pend = false → ∃ rs, t = { s with results := s.results ++ rs })

/-- R40: the frame of FEED. Constants, working registers and the host's list are left. A row that appends writes one byte, at
index LEN, and only when there is room; every other byte of BUF reads as before. A row that discards leaves every byte; a row
that opens or closes a frame leaves an empty buffer. -/
def Obligations.FeedWritesOnlyTheByteAtLen : Prop :=
  ∀ (s : State) (b : Byte), s.state ≠ .done →
    ∃ t, exec (.feed b) s = .next t ∧ t.params = s.params ∧ t.acc = s.acc ∧ t.pend = s.pend ∧ t.pending = s.pending ∧
      (s.state = .escp ∨ (s.state = .infr ∧ b ≠ 0x7E) →
        (∀ a, a ≠ s.len → t.memRead a = s.memRead a) ∧
        t.memRead s.len = (if s.params.bufCap.all (fun n => decide (s.len < n)) then some b else none)) ∧
      (s.state = .scan ∧ b ≠ 0x7E → ∀ a, t.memRead a = s.memRead a) ∧
      ((s.state = .scan ∨ s.state = .infr) ∧ b = 0x7E → t.len = 0) ∧
      (s.state = .scan → t.ovf = s.ovf)

/-- R22: BUF changes in three ways only, by any one operation other than the host's loop: not at all, cleared, or one byte
longer at its end. -/
def Obligations.BufferIsClearedOrAppendedNeverOverwritten : Prop :=
  ∀ (i : Instr) (s t : State), (∀ w, i ≠ .assembleAll w) → exec i s = .next t →
    t.buf = s.buf ∨ t.buf = [] ∨ ∃ b, t.buf = s.buf ++ [b]

/-- R8, R30, R147: no operation reads the host's options, what the host has yet to issue, or what it was handed: changing
them changes nothing else. -/
def Obligations.HostSideDataIsReadByNoOperation : Prop :=
  ∀ (i : Instr) (s t : State) (v l : Bool) (ks : List Packet) (before : List Result), exec i s = .next t →
    exec i { s with params := { s.params with verifyChecksum := v, validateLength := l }, pending := ks,
                    results := before } =
      .next { t with params := { t.params with verifyChecksum := v, validateLength := l }, pending := ks,
                     results := before ++ t.results.drop s.results.length }

/-- R33, R48 (c), R211: instances share nothing. Steps of two different instances commute, each leaves the others alone, and a
new one starts in the reset state. -/
def Obligations.StepsOfDifferentInstancesCommute : Prop :=
  (∀ (m m1 m2 : Instances) (j k : Nat), j ≠ k → Instances.stepAt j m = .next m1 → Instances.stepAt k m = .next m2 →
    (∀ n, n ≠ j → m1[n]? = m[n]?) ∧
    ∃ m', Instances.stepAt k m1 = .next m' ∧ Instances.stepAt j m2 = .next m') ∧
  (∀ (m : Instances) (p : Params), p.legal = true → Instances.accept p m = .next (m ++ [State.fresh p]))
end

