-- ==== Sys2Proof/Laws/State.lean ====
section
/-! SUPPORT. Sys2Proof/Laws/State.lean: one lemma per field per update of `State`, and of the conditional update `append`. -/

namespace Sys2Proof.Machine

/-! ### hand -/

@[simp] theorem State.hand_params (r : Result) (s : State) : (s.hand r).params = s.params := rfl
@[simp] theorem State.hand_state (r : Result) (s : State) : (s.hand r).state = s.state := rfl
@[simp] theorem State.hand_buf (r : Result) (s : State) : (s.hand r).buf = s.buf := rfl
@[simp] theorem State.hand_trunc (r : Result) (s : State) : (s.hand r).trunc = s.trunc := rfl
@[simp] theorem State.hand_ovf (r : Result) (s : State) : (s.hand r).ovf = s.ovf := rfl
@[simp] theorem State.hand_acc (r : Result) (s : State) : (s.hand r).acc = s.acc := rfl
@[simp] theorem State.hand_pend (r : Result) (s : State) : (s.hand r).pend = s.pend := rfl
@[simp] theorem State.hand_pending (r : Result) (s : State) : (s.hand r).pending = s.pending := rfl
@[simp] theorem State.hand_results (r : Result) (s : State) : (s.hand r).results = s.results ++ [r] := rfl

/-! ### clearWorking -/

@[simp] theorem State.clearWorking_params (s : State) : s.clearWorking.params = s.params := rfl
@[simp] theorem State.clearWorking_state (s : State) : s.clearWorking.state = s.state := rfl
@[simp] theorem State.clearWorking_buf (s : State) : s.clearWorking.buf = s.buf := rfl
@[simp] theorem State.clearWorking_trunc (s : State) : s.clearWorking.trunc = s.trunc := rfl
@[simp] theorem State.clearWorking_ovf (s : State) : s.clearWorking.ovf = s.ovf := rfl
@[simp] theorem State.clearWorking_acc (s : State) : s.clearWorking.acc = 0 := rfl
@[simp] theorem State.clearWorking_pend (s : State) : s.clearWorking.pend = false := rfl
@[simp] theorem State.clearWorking_pending (s : State) : s.clearWorking.pending = s.pending := rfl
@[simp] theorem State.clearWorking_results (s : State) : s.clearWorking.results = s.results := rfl

/-! ### setOverflow -/

@[simp] theorem State.setOverflow_params (s : State) : s.setOverflow.params = s.params := rfl
@[simp] theorem State.setOverflow_state (s : State) : s.setOverflow.state = s.state := rfl
@[simp] theorem State.setOverflow_buf (s : State) : s.setOverflow.buf = s.buf := rfl
@[simp] theorem State.setOverflow_trunc (s : State) : s.setOverflow.trunc = true := rfl
@[simp] theorem State.setOverflow_ovf (s : State) : s.setOverflow.ovf = true := rfl
@[simp] theorem State.setOverflow_acc (s : State) : s.setOverflow.acc = s.acc := rfl
@[simp] theorem State.setOverflow_pend (s : State) : s.setOverflow.pend = s.pend := rfl
@[simp] theorem State.setOverflow_pending (s : State) : s.setOverflow.pending = s.pending := rfl
@[simp] theorem State.setOverflow_results (s : State) : s.setOverflow.results = s.results := rfl

/-! ### raiseBufferOverflow -/

@[simp] theorem State.raiseBufferOverflow_params (s : State) : s.raiseBufferOverflow.params = s.params := rfl
@[simp] theorem State.raiseBufferOverflow_state (s : State) : s.raiseBufferOverflow.state = s.state := rfl
@[simp] theorem State.raiseBufferOverflow_buf (s : State) : s.raiseBufferOverflow.buf = s.buf := rfl
@[simp] theorem State.raiseBufferOverflow_trunc (s : State) : s.raiseBufferOverflow.trunc = true := rfl
@[simp] theorem State.raiseBufferOverflow_ovf (s : State) : s.raiseBufferOverflow.ovf = true := rfl
@[simp] theorem State.raiseBufferOverflow_acc (s : State) : s.raiseBufferOverflow.acc = s.acc := rfl
@[simp] theorem State.raiseBufferOverflow_pend (s : State) : s.raiseBufferOverflow.pend = s.pend := rfl
@[simp] theorem State.raiseBufferOverflow_pending (s : State) : s.raiseBufferOverflow.pending = s.pending := rfl
@[simp] theorem State.raiseBufferOverflow_results (s : State) : s.raiseBufferOverflow.results = s.results := rfl

/-! ### memAppend -/

@[simp] theorem State.memAppend_params (b : Byte) (s : State) : (s.memAppend b).params = s.params := rfl
@[simp] theorem State.memAppend_state (b : Byte) (s : State) : (s.memAppend b).state = s.state := rfl
@[simp] theorem State.memAppend_buf (b : Byte) (s : State) : (s.memAppend b).buf = s.buf ++ [b] := rfl
@[simp] theorem State.memAppend_trunc (b : Byte) (s : State) : (s.memAppend b).trunc = s.trunc := rfl
@[simp] theorem State.memAppend_ovf (b : Byte) (s : State) : (s.memAppend b).ovf = s.ovf := rfl
@[simp] theorem State.memAppend_acc (b : Byte) (s : State) : (s.memAppend b).acc = s.acc := rfl
@[simp] theorem State.memAppend_pend (b : Byte) (s : State) : (s.memAppend b).pend = s.pend := rfl
@[simp] theorem State.memAppend_pending (b : Byte) (s : State) : (s.memAppend b).pending = s.pending := rfl
@[simp] theorem State.memAppend_results (b : Byte) (s : State) : (s.memAppend b).results = s.results := rfl

/-! ### goto -/

@[simp] theorem State.goto_params (v : AsmState) (s : State) : (s.goto v).params = s.params := rfl
@[simp] theorem State.goto_state (v : AsmState) (s : State) : (s.goto v).state = v := rfl
@[simp] theorem State.goto_buf (v : AsmState) (s : State) : (s.goto v).buf = s.buf := rfl
@[simp] theorem State.goto_trunc (v : AsmState) (s : State) : (s.goto v).trunc = s.trunc := rfl
@[simp] theorem State.goto_ovf (v : AsmState) (s : State) : (s.goto v).ovf = s.ovf := rfl
@[simp] theorem State.goto_acc (v : AsmState) (s : State) : (s.goto v).acc = s.acc := rfl
@[simp] theorem State.goto_pend (v : AsmState) (s : State) : (s.goto v).pend = s.pend := rfl
@[simp] theorem State.goto_pending (v : AsmState) (s : State) : (s.goto v).pending = s.pending := rfl
@[simp] theorem State.goto_results (v : AsmState) (s : State) : (s.goto v).results = s.results := rfl

/-! ### clearFrame -/

@[simp] theorem State.clearFrame_params (s : State) : s.clearFrame.params = s.params := rfl
@[simp] theorem State.clearFrame_state (s : State) : s.clearFrame.state = s.state := rfl
@[simp] theorem State.clearFrame_buf (s : State) : s.clearFrame.buf = [] := rfl
@[simp] theorem State.clearFrame_trunc (s : State) : s.clearFrame.trunc = false := rfl
@[simp] theorem State.clearFrame_ovf (s : State) : s.clearFrame.ovf = s.ovf := rfl
@[simp] theorem State.clearFrame_acc (s : State) : s.clearFrame.acc = s.acc := rfl
@[simp] theorem State.clearFrame_pend (s : State) : s.clearFrame.pend = s.pend := rfl
@[simp] theorem State.clearFrame_pending (s : State) : s.clearFrame.pending = s.pending := rfl
@[simp] theorem State.clearFrame_results (s : State) : s.clearFrame.results = s.results := rfl

/-! ### xclr -/

@[simp] theorem State.xclr_params (s : State) : s.xclr.params = s.params := rfl
@[simp] theorem State.xclr_state (s : State) : s.xclr.state = s.state := rfl
@[simp] theorem State.xclr_buf (s : State) : s.xclr.buf = s.buf := rfl
@[simp] theorem State.xclr_trunc (s : State) : s.xclr.trunc = s.trunc := rfl
@[simp] theorem State.xclr_ovf (s : State) : s.xclr.ovf = s.ovf := rfl
@[simp] theorem State.xclr_acc (s : State) : s.xclr.acc = 0 := rfl
@[simp] theorem State.xclr_pend (s : State) : s.xclr.pend = s.pend := rfl
@[simp] theorem State.xclr_pending (s : State) : s.xclr.pending = s.pending := rfl
@[simp] theorem State.xclr_results (s : State) : s.xclr.results = s.results := rfl

/-! ### xabs -/

@[simp] theorem State.xabs_params (b : Byte) (s : State) : (s.xabs b).params = s.params := rfl
@[simp] theorem State.xabs_state (b : Byte) (s : State) : (s.xabs b).state = s.state := rfl
@[simp] theorem State.xabs_buf (b : Byte) (s : State) : (s.xabs b).buf = s.buf := rfl
@[simp] theorem State.xabs_trunc (b : Byte) (s : State) : (s.xabs b).trunc = s.trunc := rfl
@[simp] theorem State.xabs_ovf (b : Byte) (s : State) : (s.xabs b).ovf = s.ovf := rfl
@[simp] theorem State.xabs_acc (b : Byte) (s : State) : (s.xabs b).acc = xorByte s.acc b := rfl
@[simp] theorem State.xabs_pend (b : Byte) (s : State) : (s.xabs b).pend = s.pend := rfl
@[simp] theorem State.xabs_pending (b : Byte) (s : State) : (s.xabs b).pending = s.pending := rfl
@[simp] theorem State.xabs_results (b : Byte) (s : State) : (s.xabs b).results = s.results := rfl

/-! ### resetInstance -/

@[simp] theorem State.resetInstance_params (s : State) : s.resetInstance.params = s.params := rfl
@[simp] theorem State.resetInstance_state (s : State) : s.resetInstance.state = .scan := rfl
@[simp] theorem State.resetInstance_buf (s : State) : s.resetInstance.buf = [] := rfl
@[simp] theorem State.resetInstance_trunc (s : State) : s.resetInstance.trunc = false := rfl
@[simp] theorem State.resetInstance_ovf (s : State) : s.resetInstance.ovf = false := rfl
@[simp] theorem State.resetInstance_acc (s : State) : s.resetInstance.acc = 0 := rfl
@[simp] theorem State.resetInstance_pend (s : State) : s.resetInstance.pend = false := rfl
@[simp] theorem State.resetInstance_pending (s : State) : s.resetInstance.pending = s.pending := rfl
@[simp] theorem State.resetInstance_results (s : State) : s.resetInstance.results = s.results := rfl

/-! ### present -/

@[simp] theorem State.present_params (k : Packet) (s : State) : (s.present k).params = s.params := rfl
@[simp] theorem State.present_state (k : Packet) (s : State) : (s.present k).state = s.state := rfl
@[simp] theorem State.present_buf (k : Packet) (s : State) : (s.present k).buf = s.buf := rfl
@[simp] theorem State.present_trunc (k : Packet) (s : State) : (s.present k).trunc = s.trunc := rfl
@[simp] theorem State.present_ovf (k : Packet) (s : State) : (s.present k).ovf = s.ovf := rfl
@[simp] theorem State.present_acc (k : Packet) (s : State) : (s.present k).acc = s.acc := rfl
@[simp] theorem State.present_pend (k : Packet) (s : State) : (s.present k).pend = s.pend := rfl
@[simp] theorem State.present_pending (k : Packet) (s : State) : (s.present k).pending = k :: s.pending := rfl
@[simp] theorem State.present_results (k : Packet) (s : State) : (s.present k).results = s.results := rfl

/-! ### append -/

@[simp] theorem State.append_params (b : Byte) (s : State) : (s.append b).params = s.params := by
  unfold State.append; split <;> rfl
@[simp] theorem State.append_state (b : Byte) (s : State) : (s.append b).state = s.state := by
  unfold State.append; split <;> rfl
@[simp] theorem State.append_acc (b : Byte) (s : State) : (s.append b).acc = s.acc := by
  unfold State.append; split <;> rfl
@[simp] theorem State.append_pend (b : Byte) (s : State) : (s.append b).pend = s.pend := by
  unfold State.append; split <;> rfl
@[simp] theorem State.append_pending (b : Byte) (s : State) : (s.append b).pending = s.pending := by
  unfold State.append; split <;> rfl
@[simp] theorem State.append_results (b : Byte) (s : State) : (s.append b).results = s.results := by
  unfold State.append; split <;> rfl

/-- All that `append` can do (R107): with room it stores the byte, without room it records the overflow. -/
theorem State.append_cases (b : Byte) (s : State) :
    (s.hasRoom = true ∧ s.append b = s.memAppend b) ∨ (s.hasRoom = false ∧ s.append b = s.raiseBufferOverflow) := by
  unfold State.append
  cases h : s.hasRoom <;> simp

/-- An unbounded buffer always has room (R107). -/
theorem State.hasRoom_of_unbounded (s : State) (h : s.params.bufCap = none) : s.hasRoom = true := by
  simp [State.hasRoom, h]

/-- A bounded buffer has room when `LEN < BUF_CAP` (R107). -/
theorem State.hasRoom_iff_of_bounded (s : State) (n : Nat) (h : s.params.bufCap = some n) :
    s.hasRoom = true ↔ s.len < n := by
  simp [State.hasRoom, State.len, h]

/-- What a fresh instance holds. -/
theorem State.fresh_fields (p : Params) :
    (State.fresh p).params = p ∧ (State.fresh p).state = .scan ∧ (State.fresh p).buf = [] ∧
      (State.fresh p).trunc = false ∧ (State.fresh p).ovf = false :=
  ⟨rfl, rfl, rfl, rfl, rfl⟩

end Sys2Proof.Machine
end

