-- ==== Sys2Proof/Laws/Memory.lean ====
section
/-! SUPPORT. Sys2Proof/Laws/Memory.lean: every access to the storage `BUF` keeps its form (20_memory.md R40), and what a read of
one byte gives after it. -/

namespace Sys2Proof.Machine

/-- The form a buffer keeps, for the capacity of its instance. -/
theorem Memory.wf_iff (cap : Option Nat) (buf : Bytes) :
    Memory.wf cap buf = true ↔ ∀ n, cap = some n → buf.length ≤ n := by
  cases cap <;> simp [Memory.wf]

/-- The empty buffer has the form. -/
theorem Memory.wf_nil (cap : Option Nat) : Memory.wf cap [] = true := by
  simp [Memory.wf_iff]

/-- The append keeps the form: it stores only when there is room. -/
theorem Memory.wf_append (b : Byte) (s : State) (h : Memory.wf s.params.bufCap s.buf = true) :
    Memory.wf (s.append b).params.bufCap (s.append b).buf = true := by
  rw [Memory.wf_iff] at h ⊢
  rcases State.append_cases b s with ⟨room, e⟩ | ⟨_, e⟩
  · intro n hn
    rw [State.append_params] at hn
    have := (State.hasRoom_iff_of_bounded s n hn).mp room
    simp only [e, State.memAppend_buf, List.length_append, List.length_singleton]
    simp only [State.len] at this
    omega
  · simpa [e] using h

/-- The clear keeps the form. -/
theorem Memory.wf_clearFrame (s : State) : Memory.wf s.clearFrame.params.bufCap s.clearFrame.buf = true :=
  Memory.wf_nil _

/-- Resetting an instance leaves the form. -/
theorem Memory.wf_resetInstance (s : State) :
    Memory.wf s.resetInstance.params.bufCap s.resetInstance.buf = true :=
  Memory.wf_nil _

/-- The machine after reset has the form. -/
theorem Memory.wf_reset : Memory.wf State.reset.params.bufCap State.reset.buf = true := rfl

/-- The byte just appended is read back at its index, `LEN` before the append. -/
theorem State.memRead_memAppend_len (b : Byte) (s : State) : (s.memAppend b).memRead s.len = some b := by
  simp [State.memRead, State.len]

/-- Every other index reads as before the append. -/
theorem State.memRead_memAppend_of_ne (b : Byte) (s : State) (i : Nat) (h : i ≠ s.len) :
    (s.memAppend b).memRead i = s.memRead i := by
  unfold State.memRead State.len at *
  rw [State.memAppend_buf]
  rcases Nat.lt_or_ge i s.buf.length with hi | hi
  · rw [List.getElem?_append_left hi]
  · rw [List.getElem?_eq_none (by simp; omega), List.getElem?_eq_none hi]

/-- Raising the overflow writes no byte. -/
theorem State.memRead_raiseBufferOverflow (s : State) (i : Nat) :
    s.raiseBufferOverflow.memRead i = s.memRead i := rfl

end Sys2Proof.Machine
end

