-- ==== Sys2Proof/Laws/Assembler.lean ====
section
/-! SUPPORT. Sys2Proof/Laws/Assembler.lean: what FEED does, row by row, said once so that later proofs need not unfold it, and
what every row leaves alone. -/

namespace Sys2Proof.Machine

theorem startByte_eq : startByte = delim := rfl

theorem stopByte_eq : stopByte = delim := rfl

/-- Performing any row leaves the constants, the working registers and the host's lists. -/
theorem performRow_leaves (row : Row) (b : Byte) (s : State) :
    (performRow row b s).1.params = s.params ∧ (performRow row b s).1.acc = s.acc ∧
      (performRow row b s).1.pend = s.pend ∧ (performRow row b s).1.pending = s.pending ∧
      (performRow row b s).1.results = s.results := by
  cases row <;> simp [performRow, completeFrame]

/-- FEED leaves the constants, the working registers and the host's lists. -/
theorem feed_leaves (b : Byte) (s : State) :
    (feed b s).1.params = s.params ∧ (feed b s).1.acc = s.acc ∧ (feed b s).1.pend = s.pend ∧
      (feed b s).1.pending = s.pending ∧ (feed b s).1.results = s.results := by
  unfold feed
  split
  · exact performRow_leaves _ b s
  · obtain ⟨h1, h2, h3, h4, h5⟩ :=
      performRow_leaves (if b = startByte then .scanStart else .scanElse) b (completeFrame s).1
    exact ⟨h1, h2, h3, h4, h5⟩

/-- FEED in `SCAN` (R101). -/
theorem feed_of_scan (b : Byte) (s : State) (h : s.state = .scan) :
    feed b s = if b = delim then (s.clearFrame.goto .infr, none) else (s, none) := by
  unfold feed rowOf
  rw [h]
  simp only [selectRow, startByte_eq]
  split <;> simp_all [performRow]

/-- FEED of a delimiter in `INFR` (R102). -/
theorem feed_delim_of_infr (s : State) (h : s.state = .infr) :
    feed delim s = (s.clearFrame.goto .scan, s.emission) := by
  unfold feed rowOf
  rw [h]
  simp only [selectRow, stopByte_eq]
  rfl

/-- FEED of any byte but a delimiter in `INFR` (R104, R105). -/
theorem feed_of_infr (b : Byte) (s : State) (h : s.state = .infr) (hb : b ≠ delim) :
    feed b s = ((s.append b).goto (if b = s.params.esc then .escp else .infr), none) := by
  unfold feed rowOf
  rw [h]
  simp only [selectRow, stopByte_eq, startByte_eq, hb, if_false]
  by_cases he : b = s.params.esc
  · simp [he, performRow]
  · simp only [he, if_false, performRow]
    have : (s.append b).goto .infr = s.append b := by
      unfold State.goto
      rw [← h, ← State.append_state b s]
    rw [this]

/-- FEED of any byte in `ESCP` (R106). -/
theorem feed_of_escp (b : Byte) (s : State) (h : s.state = .escp) :
    feed b s = ((s.append b).goto .infr, none) := by
  unfold feed rowOf
  rw [h]
  rfl

/-- FEED in a `State` value with `STATE = DONE` (log entry 5). -/
theorem feed_of_done (b : Byte) (s : State) (h : s.state = .done) :
    feed b s = (s.clearFrame.goto (if b = delim then .infr else .scan), s.emission) := by
  unfold feed rowOf
  rw [h]
  simp only [selectRow, startByte_eq]
  by_cases hb : b = delim
  · simp only [hb, if_true]; rfl
  · simp only [hb, if_false]; rfl

/-- A row presented by itself is performed when it is the selected one. -/
theorem performIfSelected_of_selected (row : Row) (b : Byte) (s : State) (h : rowOf s b = some row) :
    performIfSelected row b s = complete (.frame (performRow row b s).2) (performRow row b s).1 := by
  simp [performIfSelected, h]

/-- A row presented by itself does nothing when it is not the selected one. -/
theorem performIfSelected_of_not_selected (row : Row) (b : Byte) (s : State) (h : rowOf s b ≠ some row) :
    performIfSelected row b s = .next s := by
  simp [performIfSelected, h]

/-- FEED neither reads nor writes the results: it commutes with handing one over. -/
theorem feed_hand (b : Byte) (r : Result) (s : State) : feed b (s.hand r) = ((feed b s).1.hand r, (feed b s).2) := by
  have append_hand : (s.hand r).append b = (s.append b).hand r := by
    unfold State.append
    rw [show (s.hand r).hasRoom = s.hasRoom from rfl]
    cases s.hasRoom <;> rfl
  rcases hs : s.state with _ | _ | _ | _
  · rw [feed_of_scan b s hs, feed_of_scan b (s.hand r) hs]; split <;> rfl
  · by_cases hb : b = delim
    · rw [hb, feed_delim_of_infr s hs, feed_delim_of_infr (s.hand r) hs]; rfl
    · rw [feed_of_infr b s hs hb, feed_of_infr b (s.hand r) hs hb, append_hand]; rfl
  · rw [feed_of_escp b s hs, feed_of_escp b (s.hand r) hs, append_hand]; rfl
  · rw [feed_of_done b s hs, feed_of_done b (s.hand r) hs]; rfl

/-- ASSEMBLE_ALL over a concatenation: the second part runs on the state the first left (R111). -/
theorem assembleAll_append (x y : Bytes) (s : State) :
    assembleAll (x ++ y) s =
      ((assembleAll y (assembleAll x s).1).1, (assembleAll x s).2 ++ (assembleAll y (assembleAll x s).1).2) := by
  induction x generalizing s with
  | nil => simp [assembleAll]
  | cons b x ih => simp [assembleAll, ih]

/-- ASSEMBLE_ALL leaves what FEED leaves. -/
theorem assembleAll_leaves (w : Bytes) (s : State) :
    (assembleAll w s).1.params = s.params ∧ (assembleAll w s).1.acc = s.acc ∧ (assembleAll w s).1.pend = s.pend ∧
      (assembleAll w s).1.pending = s.pending ∧ (assembleAll w s).1.results = s.results := by
  induction w generalizing s with
  | nil => simp [assembleAll]
  | cons b w ih =>
    obtain ⟨h1, h2, h3, h4, h5⟩ := ih (feed b s).1
    obtain ⟨k1, k2, k3, k4, k5⟩ := feed_leaves b s
    exact ⟨h1.trans k1, h2.trans k2, h3.trans k3, h4.trans k4, h5.trans k5⟩

end Sys2Proof.Machine
end

