-- ==== Sys2Proof/Laws/Codec.lean ====
section
/-! SUPPORT. Sys2Proof/Laws/Codec.lean: the small lemmas of the codec and the checksum, one per branch of each rule. -/

namespace Sys2Proof.Machine

@[simp] theorem esc1_delim (p : Params) : esc1 p delim = [p.esc, p.code1] := by simp [esc1]

theorem esc1_esc (p : Params) (h : p.esc ≠ delim) : esc1 p p.esc = [p.esc, p.code2] := by simp [esc1, h]

theorem esc1_other (p : Params) (b : Byte) (h : b ≠ delim) (h' : b ≠ p.esc) : esc1 p b = [b] := by
  simp [esc1, h, h']

@[simp] theorem escape_nil (p : Params) : escape p [] = [] := rfl

theorem escape_cons (p : Params) (b : Byte) (s : Bytes) : escape p (b :: s) = esc1 p b ++ escape p s := rfl

@[simp] theorem unescape_nil (p : Params) : unescape p [] = [] := rfl

@[simp] theorem unescape_single (p : Params) (b : Byte) : unescape p [b] = [b] := rfl

/-- The `CODE1` branch of R125. -/
theorem unescape_pairDelim (p : Params) (t : Bytes) : unescape p (p.esc :: p.code1 :: t) = delim :: unescape p t := by
  simp [unescape]

/-- The `CODE2` branch of R125. -/
theorem unescape_pairEsc (p : Params) (h : p.code1 ≠ p.code2) (t : Bytes) :
    unescape p (p.esc :: p.code2 :: t) = p.esc :: unescape p t := by
  simp [unescape, h.symm]

/-- The last branch of R125 for a byte that is no marker. -/
theorem unescape_lit (p : Params) (b : Byte) (h : b ≠ p.esc) (t : Bytes) :
    unescape p (b :: t) = b :: unescape p t := by
  cases t <;> simp [unescape, h]

/-- The last branch of R125 for a marker that heads no pair. -/
theorem unescape_ill (p : Params) (c : Byte) (h1 : c ≠ p.code1) (h2 : c ≠ p.code2) (t : Bytes) :
    unescape p (p.esc :: c :: t) = p.esc :: unescape p (c :: t) := by
  simp [unescape, h1, h2]

@[simp] theorem checksum_nil : checksum [] = 0 := rfl

/-- The running value of R140's loop can start from any value. -/
theorem foldl_xorByte (p : Bytes) (a : Byte) : p.foldl xorByte a = a ^^^ checksum p := by
  induction p generalizing a with
  | nil => simp
  | cons b t ih =>
    simp only [checksum, List.foldl_cons] at ih ⊢
    rw [ih, ih (xorByte 0 b)]
    simp [xorByte, BitVec.xor_assoc]

theorem checksum_cons (b : Byte) (p : Bytes) : checksum (b :: p) = b ^^^ checksum p := by
  rw [checksum, List.foldl_cons, foldl_xorByte]
  simp [xorByte]

@[simp] theorem splitTrailing_nil : splitTrailing [] = none := rfl

@[simp] theorem splitTrailing_concat (q : Bytes) (c : Byte) : splitTrailing (q ++ [c]) = some (q, c) := by
  simp [splitTrailing]

end Sys2Proof.Machine
end

