-- ==== Sys2Proof/Laws/Config.lean ====
section
/-! SUPPORT. Sys2Proof/Laws/Config.lean: what legal constants satisfy, constraint by constraint (00_scope.md R9). -/

namespace Sys2Proof.Params

theorem legal_iff (p : Params) :
    p.legal = true ↔ p.esc ≠ delim ∧ p.code1 ≠ p.code2 ∧ (p.code1 ≠ delim ∧ p.code2 ≠ delim) ∧
      (p.code1 ≠ p.esc ∧ p.code2 ≠ p.esc) ∧ p.bufCap ≠ some 0 := by
  simp only [legal, Bool.and_eq_true, bne_iff_ne, and_assoc]

variable {p : Params}

/-- P1 -/
theorem legal_p1 (h : p.legal = true) : p.esc ≠ delim := ((legal_iff p).mp h).1

/-- P2 -/
theorem legal_p2 (h : p.legal = true) : p.code1 ≠ p.code2 := ((legal_iff p).mp h).2.1

/-- P3 for `CODE1` -/
theorem legal_p3_code1 (h : p.legal = true) : p.code1 ≠ delim := ((legal_iff p).mp h).2.2.1.1

/-- P3 for `CODE2` -/
theorem legal_p3_code2 (h : p.legal = true) : p.code2 ≠ delim := ((legal_iff p).mp h).2.2.1.2

/-- P4 for `CODE1` -/
theorem legal_p4_code1 (h : p.legal = true) : p.code1 ≠ p.esc := ((legal_iff p).mp h).2.2.2.1.1

/-- P4 for `CODE2` -/
theorem legal_p4_code2 (h : p.legal = true) : p.code2 ≠ p.esc := ((legal_iff p).mp h).2.2.2.1.2

/-- The capacity of legal constants is positive or unbounded. -/
theorem legal_capacity (h : p.legal = true) : p.bufCap ≠ some 0 := ((legal_iff p).mp h).2.2.2.2

/-- R9: the defaults satisfy P1 to P4. -/
theorem standard_legal : standard.legal = true := by decide

end Sys2Proof.Params
end

