-- ==== Sys2Proof/Laws/PerInstr.lean ====
section
/-! SUPPORT. Sys2Proof/Laws/PerInstr.lean: the family RoundTrip, one lemma per row of the opcode table: the packet of a
well-formed instruction decodes to it and to nothing more. -/

namespace Sys2Proof.Laws.RoundTrip

/-- What is said of one instruction: for legal constants, if it is well-formed it has a packet, and the packet decodes to it. -/
def Statement (i : Instr) : Prop :=
  ∀ p : Params, p.legal = true → i.wellFormed p = true → ∃ k, encode p i = some k ∧ decode p k = .ok (i, none)

theorem idle : Statement .idle := fun _ _ _ => ⟨_, rfl, rfl⟩
theorem feed (b : Byte) : Statement (.feed b) := fun _ _ _ => ⟨_, rfl, rfl⟩
theorem escape (s : Bytes) : Statement (.escape s) := fun _ _ _ => ⟨_, rfl, rfl⟩
theorem unescape (t : Bytes) : Statement (.unescape t) := fun _ _ _ => ⟨_, rfl, rfl⟩
theorem checksum (q : Bytes) : Statement (.checksum q) := fun _ _ _ => ⟨_, rfl, rfl⟩
theorem check (u : Bytes) : Statement (.check u) := fun _ _ _ => ⟨_, rfl, rfl⟩
theorem frame (q : Bytes) : Statement (.frame q) := fun _ _ _ => ⟨_, rfl, rfl⟩
theorem arst : Statement .arst := fun _ _ _ => ⟨_, rfl, rfl⟩
theorem assembleAll (w : Bytes) : Statement (.assembleAll w) := fun _ _ _ => ⟨_, rfl, rfl⟩

theorem symDelim : Statement .symDelim := fun _ _ _ => ⟨_, rfl, by simp [decode, decodeSym, classify, delim]⟩

theorem symEsc : Statement .symEsc := fun _ hp _ => ⟨_, rfl, by simp [decode, decodeSym, classify, Params.legal_p1 hp]⟩

theorem symOther (b : Byte) : Statement (.symOther b) := fun _ _ h => by
  simp only [Instr.wellFormed, Bool.and_eq_true, bne_iff_ne] at h
  exact ⟨_, rfl, by simp [decode, decodeSym, classify, h.1, h.2]⟩

theorem feedScanStart : Statement .feedScanStart := fun _ _ _ => ⟨_, rfl, rfl⟩

theorem feedScanElse (b : Byte) : Statement (.feedScanElse b) := fun _ _ h => by
  simp only [Instr.wellFormed, bne_iff_ne] at h
  exact ⟨_, rfl, by simp [decode, AsmState.ofCode, selectRow, h, Row.instr]⟩

theorem feedInfrStop : Statement .feedInfrStop := fun _ _ _ => ⟨_, rfl, rfl⟩

/-- The row that no byte selects (R103) is not well-formed. -/
theorem feedInfrStart : Statement .feedInfrStart := fun _ _ h => by
  simp [Instr.wellFormed, startByte, stopByte] at h

theorem feedInfrEsc : Statement .feedInfrEsc := fun _ hp _ =>
  ⟨_, rfl, by simp [decode, AsmState.ofCode, selectRow, startByte, stopByte, Params.legal_p1 hp, Row.instr]⟩

theorem feedInfrOther (b : Byte) : Statement (.feedInfrOther b) := fun _ _ h => by
  simp only [Instr.wellFormed, Bool.and_eq_true, bne_iff_ne] at h
  exact ⟨_, rfl, by simp [decode, AsmState.ofCode, selectRow, h.1.1, h.1.2, h.2, Row.instr]⟩

theorem feedEscpAny (b : Byte) : Statement (.feedEscpAny b) := fun _ _ _ => ⟨_, rfl, rfl⟩

theorem pairDelim : Statement .pairDelim := fun _ _ _ => ⟨_, rfl, by simp [decode, nextCode, leftover, Code.instr]⟩

theorem pairEsc : Statement .pairEsc := fun _ hp _ =>
  ⟨_, rfl, by simp [decode, nextCode, leftover, Code.instr, (Params.legal_p2 hp).symm]⟩

theorem lit (v : Byte) : Statement (.lit v) := fun _ _ h => by
  simp only [Instr.wellFormed, bne_iff_ne] at h
  exact ⟨_, rfl, by simp [decode, nextCode, leftover, Code.instr, h]⟩

theorem pairIll : Statement .pairIll := fun _ _ _ => ⟨_, rfl, by simp [decode, nextCode, leftover, Code.instr]⟩

end Sys2Proof.Laws.RoundTrip
end

