-- ==== Sys2Proof/Tests/Slice0.lean ====
section
/-! SUPPORT. Sys2Proof/Tests/Slice0.lean: the checks of WellFormed on ill-formed terms, the decoding of a word of every row, one or
two steps per row with the results of 95_test_vectors.md (named by their numbers there), and a witness for the hypotheses of
every statement that has any. -/

namespace Sys2Proof.Tests

open Sys2Proof Sys2Proof.Machine Sys2Proof.Spec

/-! ## Helpers -/

/-- R8's default constants. -/
def std : Params := Params.standard

/-- A resting instance in a given `STATE` with given bytes in `BUF`. -/
def inst (v : AsmState) (b : Bytes) : State := { State.reset with state := v, buf := b }

/-- The same with `BUF_CAP = 4`, the capacity of vectors V-C. -/
def cap4 (v : AsmState) (b : Bytes) : State :=
  { State.reset with params := { std with bufCap := some 4 }, state := v, buf := b }

/-- `cap4` after the overflow of step 6 of program P6. -/
def lost (v : AsmState) : State := { cap4 v [0x01, 0x02, 0x03, 0x04] with trunc := true, ovf := true }

/-- The next state of an outcome, if it is one. -/
def nextOf (o : Host.Outcome State Fault Refusal) : Option State :=
  match o with
  | .next t => some t
  | .fault _ => none
  | .refused _ => none

/-- The refusal of an outcome, if it is one. -/
def refusalOf (o : Host.Outcome State Fault Refusal) : Option Refusal :=
  match o with
  | .next _ => none
  | .fault _ => none
  | .refused r => some r

/-- `STATE`, `BUF` and the results after an instruction. -/
def shown (i : Instr) (s : State) : Option (AsmState × Bytes × List Result) :=
  (nextOf (exec i s)).map fun t => (t.state, t.buf, t.results)

/-- The results after an instruction. -/
def handed (i : Instr) (s : State) : Option (List Result) := (nextOf (exec i s)).map fun t => t.results

/-- The instruction a packet decodes to. -/
def decoded (p : Params) (k : Packet) : Option Instr :=
  match decode p k with
  | .ok (i, _) => some i
  | .error _ => none

/-! ## WellFormed refuses -/

theorem test_wf_symOther_delim : Instr.wellFormed std (.symOther 0x7E) = false := by decide
theorem test_wf_symOther_esc : Instr.wellFormed std (.symOther 0x7D) = false := by decide
theorem test_wf_feedScanElse_delim : Instr.wellFormed std (.feedScanElse 0x7E) = false := by decide
theorem test_wf_feedInfrStart : Instr.wellFormed std .feedInfrStart = false := by decide
theorem test_wf_feedInfrOther_delim : Instr.wellFormed std (.feedInfrOther 0x7E) = false := by decide
theorem test_wf_feedInfrOther_esc : Instr.wellFormed std (.feedInfrOther 0x7D) = false := by decide
theorem test_wf_lit_esc : Instr.wellFormed std (.lit 0x7D) = false := by decide

/-- A raw delimiter is a literal of the escaped domain (R64: "any byte other than `ESC`"). -/
theorem test_wf_lit_delim : Instr.wellFormed std (.lit 0x7E) = true := by decide

/-! ## Words, written out from the encodings of 30_encoding.md -/

theorem test_dec_idle : decodeTableWord 8 0b000 = some .idle := by decide
theorem test_dec_feed : decodeTableWord 8 0b001 = some (.feed 0) := by decide
theorem test_dec_escape : decodeTableWord 8 0b010 = some (.escape []) := by decide
theorem test_dec_unescape : decodeTableWord 8 0b011 = some (.unescape []) := by decide
theorem test_dec_checksum : decodeTableWord 8 0b100 = some (.checksum []) := by decide
theorem test_dec_check : decodeTableWord 8 0b101 = some (.check []) := by decide
theorem test_dec_frame : decodeTableWord 8 0b110 = some (.frame []) := by decide
theorem test_dec_arst : decodeTableWord 8 0b111 = some .arst := by decide
theorem test_dec_feed_operand : decoded std (.op3 0b001 0b01000001 [0x55]) = some (.feed 0x41) := by decide
theorem test_dec_escape_operand : decoded std (.op3 0b010 0x41 [0x30, 0x7E]) = some (.escape [0x30, 0x7E]) := by decide
theorem test_dec_assembleAll : decoded std (.pseudo [0x7E, 0x41]) = some (.assembleAll [0x7E, 0x41]) := by decide
theorem test_dec_symDelim : decodeTableWord 8 0b01111110 = some .symDelim := by decide
theorem test_dec_symEsc : decodeTableWord 8 0b01111101 = some .symEsc := by decide
theorem test_dec_symOther : decodeTableWord 8 0b01111111 = some (.symOther 0x7F) := by decide
theorem test_dec_symOther_code : decoded std (.sym8 0b00000010) = some (.symOther 0x02) := by decide
theorem test_dec_feedScanStart : decoded std (.feedRow 0b00 0b01111110) = some .feedScanStart := by decide
theorem test_dec_feedScanElse : decoded std (.feedRow 0b00 0b01111101) = some (.feedScanElse 0x7D) := by decide
theorem test_dec_feedInfrStop : decoded std (.feedRow 0b01 0b01111110) = some .feedInfrStop := by decide
theorem test_dec_feedInfrEsc : decoded std (.feedRow 0b01 0b01111101) = some .feedInfrEsc := by decide
theorem test_dec_feedInfrOther : decoded std (.feedRow 0b01 0b00000010) = some (.feedInfrOther 0x02) := by decide
theorem test_dec_feedEscpAny : decoded std (.feedRow 0b10 0b01111110) = some (.feedEscpAny 0x7E) := by decide
theorem test_dec_noRowInDone : decoded std (.feedRow 0b11 0b01111110) = none := by decide
theorem test_dec_pairDelim : decodeTableWord 16 0b0111110100000010 = some .pairDelim := by decide
theorem test_dec_pairEsc : decodeTableWord 16 0b0111110100000001 = some .pairEsc := by decide
theorem test_dec_pairIll_other : decodeTableWord 16 0b0111110101111101 = some .pairIll := by decide
theorem test_dec_pairIll_last : decoded std (.escaped 0b01111101 []) = some .pairIll := by decide
theorem test_dec_lit : decoded std (.escaped 0b01000001 [0x7D]) = some (.lit 0x41) := by decide

/-- FEED.INFR.START: the document's table with START and STOP of different values selects it (R103, §9 of the document); this
hardware's never does. -/
theorem test_dec_feedInfrStart : selectRow 0x7B 0x7C 0x7D .infr 0x7B = some .infrStart ∧
    selectRow 0x7E 0x7E 0x7D .infr 0x7E = some .infrStop ∧ encode std .feedInfrStart = none := by decide

/-! ## One step per instruction, from 95_test_vectors.md -/

/-- B17: IDLE between two FEEDs. -/
theorem test_idle : exec .idle (inst .infr [0x41]) = .next (inst .infr [0x41]) := rfl
/-- A6. -/
theorem test_feed_stop : shown (.feed 0x7E) (inst .infr [0x11, 0x22]) = some (.scan, [], [.frame (some [0x11, 0x22])]) := by
  decide
/-- A14. -/
theorem test_feed_swallowed : shown (.feed 0x7E) (inst .escp [0x41, 0x7D]) =
    some (.infr, [0x41, 0x7D, 0x7E], [.frame none]) := by decide
/-- D14. -/
theorem test_escape : handed (.escape [0x7D, 0x7E, 0x01, 0x02]) State.reset =
    some [.bytes [0x7D, 0x01, 0x7D, 0x02, 0x01, 0x02]] := by decide
/-- E9. -/
theorem test_unescape : handed (.unescape [0x01, 0x7D, 0x01, 0x02, 0x7D, 0x02]) State.reset =
    some [.bytes [0x01, 0x7D, 0x02, 0x7E]] := by decide
/-- E16. -/
theorem test_unescape_ill : handed (.unescape [0x7D, 0x7D, 0x02]) State.reset = some [.bytes [0x7D, 0x7E]] := by decide
/-- F10. -/
theorem test_checksum : handed (.checksum [0x30, 0x7E, 0x08, 0x7D, 0x55]) State.reset = some [.byte 0x6E] := by decide
/-- F13. -/
theorem test_check_empty : handed (.check []) State.reset = some [.bool false] := by decide
/-- F16. -/
theorem test_check : handed (.check [0x41, 0x3F, 0x7E]) State.reset = some [.bool true] := by decide
/-- G5. -/
theorem test_frame : handed (.frame [0x41, 0x3F]) State.reset =
    some [.bytes [0x7E, 0x41, 0x3F, 0x7D, 0x02, 0x7E]] := by decide
/-- R110's example; the constants stay. -/
theorem test_arst : exec .arst { lost .escp with acc := 5 } = .next (cap4 .scan []) := rfl
/-- P4: a delimiter straight after an escape marker. -/
theorem test_assembleAll_swallowed : shown (.assembleAll [0x7E, 0x41, 0x7D, 0x7E, 0x42, 0x7E, 0x43, 0x7E]) State.reset =
    some (.infr, [], [.frames [[0x41, 0x7D, 0x7E, 0x42]]]) := by decide
/-- P6: BUF_CAP = 4, its first fourteen steps. -/
theorem test_assembleAll_overflow :
    (nextOf (exec (.assembleAll [0x7E, 0x01, 0x02, 0x03, 0x04, 0x05, 0x7D, 0x7E, 0x06, 0x7E, 0x7E, 0x07, 0x08, 0x7E])
      (cap4 .scan []))).map (fun t => (t.status, t.results)) =
    some (⟨0b00, 0, false, true⟩, [.frames [[0x07, 0x08]]]) := by decide
/-- A1. -/
theorem test_symDelim : shown .symDelim (inst .scan []) = some (.infr, [], [.frame none]) := by decide
/-- A8. -/
theorem test_symEsc : shown .symEsc (inst .infr [0x30]) = some (.escp, [0x30, 0x7D], [.frame none]) := by decide
/-- A4. -/
theorem test_symOther : shown (.symOther 0xFF) (inst .scan []) = some (.scan, [], [.frame none]) := by decide
/-- A1. -/
theorem test_feedScanStart : shown .feedScanStart (inst .scan []) = some (.infr, [], [.frame none]) := by decide
/-- A2. -/
theorem test_feedScanElse : shown (.feedScanElse 0x7D) (inst .scan []) = some (.scan, [], [.frame none]) := by decide
/-- A5: an empty frame. -/
theorem test_feedInfrStop : shown .feedInfrStop (inst .infr []) = some (.scan, [], [.frame none]) := by decide
/-- R103: never performed. -/
theorem test_feedInfrStart : exec .feedInfrStart (inst .infr [0x41]) = .next (inst .infr [0x41]) := rfl
/-- P6, step 7: the marker overflows and still arms ESCAPE-PENDING. -/
theorem test_feedInfrEsc : shown .feedInfrEsc (lost .infr) = some (.escp, [0x01, 0x02, 0x03, 0x04], [.frame none]) := by decide
/-- A10. -/
theorem test_feedInfrOther : shown (.feedInfrOther 0x02) (inst .infr [0x30]) = some (.infr, [0x30, 0x02], [.frame none]) := by
  decide
/-- A15. -/
theorem test_feedEscpAny : shown (.feedEscpAny 0x7D) (inst .escp [0x41, 0x7D]) =
    some (.infr, [0x41, 0x7D, 0x7D], [.frame none]) := by decide
/-- E3, E4, E2, E11. -/
theorem test_codes : handed .pairDelim State.reset = some [.bytes [0x7E]] ∧ handed .pairEsc State.reset = some [.bytes [0x7D]] ∧
    handed (.lit 0x41) State.reset = some [.bytes [0x41]] ∧ handed .pairIll State.reset = some [.bytes [0x7D]] := by decide

/-! ## Step, creation, and the per-byte forms -/

/-- A word of the table presented at reset is what the next step runs: CHECK of the empty sequence (F13). -/
theorem test_step_word : (nextOf (step (State.reset.withFetchWord 8 0b101))).map (fun t => (t.pending, t.results)) =
    some ([], [.bool false]) := by decide
/-- E12 stepped code by code: the rest of the sequence stays in front. -/
theorem test_step_escaped : (nextOf (step { State.reset with pending := [.escaped 0x41 [0x7D], .sym8 0] })).map
    (fun t => (t.pending, t.results)) = some ([.escaped 0x7D [], .sym8 0], [.bytes [0x41]]) := by decide
/-- R223. -/
theorem test_step_overlap : refusalOf (step { State.reset with pending := [.overlap 0b001 0b111] }) =
    some (.undecodable .overlappingOperations) := by decide
/-- R9 (P4): CODE2 = ESC. -/
theorem test_create_illegal : refusalOf (State.create { std with code2 := 0x7D }) = some .illegalParameters := by decide
/-- V-E, per-byte form on `30 7D 02 7D`. -/
theorem test_unescPuts : State.unescPuts [0x30, 0x7D, 0x02, 0x7D] State.reset =
    ({ State.reset with pend := true }, [0x30, 0x7E]) := by decide
/-- V-E, wrong order of the two replacements on `7D 01 02`. -/
theorem test_replace_wrong_order : replacePair 0x7D 0x02 0x7E (replacePair 0x7D 0x01 0x7D [0x7D, 0x01, 0x02]) = [0x7E] := by
  decide

/-! ## Witnesses: states and operands that meet the hypotheses of the statements -/

theorem witness_legal : Params.legal std = true ∧ Params.legal (cap4 .scan []).params = true := by decide

/-- Invariants of a concrete state whose buffer holds no delimiter. -/
theorem inv_of (s : State) (h1 : s.params.legal = true) (h2 : s.state ≠ .done)
    (h3 : s.state = .scan → s.buf = [] ∧ s.trunc = false)
    (h4 : s.state = .escp → s.trunc = true ∨ s.buf.getLast? = some s.params.esc)
    (h5 : Memory.wf s.params.bufCap s.buf = true)
    (h6 : s.trunc = true → s.ovf = true ∧ s.params.bufCap = some s.len)
    (h7 : delim ∉ s.buf) (h8 : s.params.bufCap = none → s.trunc = false ∧ s.ovf = false) : Inv s where
  legal := h1
  resting := h2
  scanEmpty := h3
  pendingMarker := h4
  bounded n hn := by simp only [Memory.wf, hn, decide_eq_true_eq] at h5; exact h5
  truncated := h6
  delimAfterEsc i hi := absurd (List.mem_of_getElem? hi) h7
  unbounded := h8

theorem inv_reset : Inv State.reset := by apply inv_of <;> decide
theorem inv_open : Inv (inst .infr [0x11, 0x22]) := by apply inv_of <;> decide
theorem inv_full : Inv (cap4 .infr [0x01, 0x02, 0x03, 0x04]) := by apply inv_of <;> decide
theorem inv_fullPending : Inv (cap4 .escp [0x01, 0x02, 0x03, 0x7D]) := by apply inv_of <;> decide
theorem inv_lost : Inv (lost .infr) := by apply inv_of <;> decide
theorem inv_lostPending : Inv (lost .escp) := by apply inv_of <;> decide

/-- ResetGivesEveryElementItsValue, InvariantsHoldAtReset: a legal set of constants with a finite buffer. -/
theorem witness_ResetGivesEveryElementItsValue :
    ∃ t, State.create (cap4 .scan []).params = .next t ∧ ResetValues t :=
  ⟨_, rfl, by unfold ResetValues; decide⟩

theorem witness_InvariantsHoldAtReset : Params.legal { std with bufCap := some 1 } = true := by decide

theorem witness_EveryStepKeepsTheInvariants :
    (Inv (inst .infr [0x11, 0x22]) ∧ ∃ t, exec (.feed 0x7D) (inst .infr [0x11, 0x22]) = .next t) ∧
    (Inv State.reset ∧ ∃ t, step State.reset = .next t) := ⟨⟨inv_open, _, rfl⟩, inv_reset, _, rfl⟩

/-- Each clause of StepRunsTheDecodedInstruction: nothing presented; a sequence of two codes; an encoded instruction. -/
theorem witness_StepRunsTheDecodedInstruction :
    State.reset.params.legal = true ∧ State.reset.pending = [] ∧
    decode std (.escaped 0x41 [0x7D]) = .ok (.lit 0x41, some (.escaped 0x7D [])) ∧
    (Instr.symOther 0x7F).wellFormed std = true ∧ encode std (.symOther 0x7F) = some (.sym8 0x7F) :=
  ⟨by decide, rfl, rfl, by decide, rfl⟩

/-- Each way for constants to fail, and constants that fail in none. -/
theorem witness_ParametersFailingTheConstraintsAreRefused :
    Params.legal { std with esc := 0x7E } = false ∧ Params.legal { std with code1 := 0x01 } = false ∧
    Params.legal { std with code1 := 0x7E } = false ∧ Params.legal { std with code2 := 0x7E } = false ∧
    Params.legal { std with code1 := 0x7D } = false ∧ Params.legal { std with code2 := 0x7D } = false ∧
    Params.legal { std with bufCap := some 0 } = false ∧
    Params.legal { std with esc := 0x1B, code1 := 0x00, code2 := 0xFF, bufCap := some 1 } = true := by decide

theorem witness_OverlappingOperationsAreRefused :
    ∃ s : State, s.params.legal = true ∧ s.pending = [.overlap 0b001 0b001] :=
  ⟨{ State.reset with pending := [.overlap 0b001 0b001] }, by decide, rfl⟩

theorem witness_DecodeInvertsEncode :
    Params.legal std = true ∧ (Instr.feedInfrOther 0x7F).wellFormed std = true ∧
    decode std (.feedRow 0b01 0x7F) = .ok (.feedInfrOther 0x7F, none) := ⟨by decide, by decide, rfl⟩

/-- The bytes beside the two reserved values. -/
theorem witness_ByteCategoriesPartitionTheBytes :
    (0x7F : Byte) ≠ 0x7E ∧ (0x7F : Byte) ≠ std.esc ∧ (0x7C : Byte) ≠ 0x7E ∧ (0x7C : Byte) ≠ std.esc := by decide

/-- Different values for START and STOP: the START row is selected. -/
theorem witness_StopTestComesBeforeStartTest :
    (0x7B : Byte) = 0x7B ∧ (0x7B : Byte) ≠ 0x7C ∧ selectRow 0x7B 0x7C 0x7D .infr 0x7B = some .infrStart := by decide

/-- One input for each clause about the head of a sequence. -/
theorem witness_CodesPartitionTheEscapedSequence :
    Params.legal std = true ∧ (0x7C : Byte) ≠ std.esc ∧ (0x7D : Byte) = std.esc ∧
    List.head? [0x02] = some std.code1 ∧ List.head? [0x01] = some std.code2 ∧
    List.head? ([] : Bytes) ≠ some std.code1 ∧ List.head? ([] : Bytes) ≠ some std.code2 ∧
    List.head? [0x03] ≠ some std.code1 ∧ List.head? [0x03] ≠ some std.code2 := by decide

theorem witness_FeedFromScan : (inst .scan []).state = .scan := rfl

theorem witness_FeedOfStopClosesTheFrame :
    (inst .infr [0x41]).state = .infr ∧ (inst .infr []).state = .infr ∧ (lost .infr).state = .infr := by decide

theorem witness_FeedOfMarkerArmsEscapePending :
    (inst .infr [0x30]).params.legal = true ∧ (inst .infr [0x30]).state = .infr ∧
    (lost .infr).params.legal = true ∧ (lost .infr).state = .infr := by decide

theorem witness_FeedOfOtherByteAppends :
    (cap4 .infr [1, 2, 3]).state = .infr ∧ (0x02 : Byte) ≠ 0x7E ∧ (0x02 : Byte) ≠ (cap4 .infr [1, 2, 3]).params.esc := by decide

theorem witness_FeedInEscapePendingAppendsAnyByte :
    (inst .escp [0x41, 0x7D]).state = .escp ∧ (lost .escp).state = .escp := by decide

theorem witness_FeedInDoneFirstCompletesTheFrame : (inst .done [0x41]).state = .done := rfl

/-- At a closing delimiter, and at a frame that has lost a byte. -/
theorem witness_FeedReturnsAFrameExactlyAtAClosingDelimiter :
    Inv (inst .infr [0x11, 0x22]) ∧ (inst .infr [0x11, 0x22]).buf ≠ [] ∧ (inst .infr [0x11, 0x22]).trunc = false ∧
    Inv (lost .infr) := ⟨inv_open, by decide, by decide, inv_lost⟩

theorem witness_FeedPerformsTheSelectedRow :
    (inst .scan []).state ≠ .done ∧ (inst .infr []).state ≠ .done ∧ (lost .escp).state ≠ .done := by decide

theorem witness_DelimiterRowsAsInstructions :
    (inst .scan []).state = .scan ∧ (inst .infr []).state ≠ .scan ∧ (0x7F : Byte) ≠ 0x7E ∧
    ¬((inst .scan []).state = .scan ∧ (0x7E : Byte) ≠ 0x7E) ∧ (inst .infr []).state = .infr ∧ (inst .scan []).state ≠ .infr := by
  decide

theorem witness_AppendingRowsAsInstructions :
    (inst .infr [0x30]).params.legal = true ∧ (inst .infr [0x30]).state = .infr ∧ (inst .escp [0x7D]).state ≠ .infr ∧
    (0x01 : Byte) ≠ 0x7E ∧ (0x01 : Byte) ≠ std.esc ∧
    ¬((inst .infr []).state = .infr ∧ (0x7D : Byte) ≠ 0x7E ∧ (0x7D : Byte) ≠ (inst .infr []).params.esc) ∧
    (inst .escp [0x7D]).state = .escp ∧ (inst .infr []).state ≠ .escp := by decide

/-- A full buffer met in IN-FRAME and in ESCAPE-PENDING; a truncated frame at its closing delimiter and before it; an unbounded
buffer. -/
theorem witness_OverflowIsRecordedAndTheFrameDroppedWhole :
    (Inv (cap4 .infr [0x01, 0x02, 0x03, 0x04]) ∧ (cap4 .infr [0x01, 0x02, 0x03, 0x04]).params.bufCap = some 4 ∧
      (cap4 .infr [0x01, 0x02, 0x03, 0x04]).len = 4) ∧
    (Inv (cap4 .escp [0x01, 0x02, 0x03, 0x7D]) ∧ (cap4 .escp [0x01, 0x02, 0x03, 0x7D]).len = 4) ∧
    (Inv (lost .infr) ∧ (lost .infr).trunc = true) ∧ (Inv (lost .escp) ∧ (lost .escp).trunc = true) ∧
    (Inv State.reset ∧ State.reset.params.bufCap = none) :=
  ⟨⟨inv_full, rfl, rfl⟩, ⟨inv_fullPending, rfl⟩, ⟨inv_lost, rfl⟩, ⟨inv_lostPending, rfl⟩, inv_reset, rfl⟩

/-- `OVF` stays through a FEED and a pure operation; a FEED to a full buffer sets both flags. -/
theorem witness_FlagsAreWrittenAsTheRuleSays :
    ((nextOf (exec (.feed 0x7E) (lost .infr))).map (fun t => (t.trunc, t.ovf)) = some (false, true)) ∧
    ((nextOf (exec (.check []) (lost .infr))).map (fun t => (t.trunc, t.ovf)) = some (true, true) ∧ pureOp (.check []) = true) ∧
    ((cap4 .infr [0x01, 0x02, 0x03, 0x04]).ovf = false ∧ (cap4 .infr [0x01, 0x02, 0x03, 0x04]).trunc = false ∧
      (nextOf (exec (.feed 0x05) (cap4 .infr [0x01, 0x02, 0x03, 0x04]))).map (fun t => (t.trunc, t.ovf)) = some (true, true)) := by
  decide

theorem witness_ArstResetsTheInstance :
    Instr.feed 0x7E ≠ .arst ∧ (lost .infr).ovf = true ∧ ∃ t, exec (.feed 0x7E) (lost .infr) = .next t :=
  ⟨by decide, by decide, _, rfl⟩

/-- The clauses that say exactly when: an append to a full buffer, one to a buffer with room, a closing delimiter at a full buffer. -/
theorem witness_FlagsAreWrittenAsTheRuleSays_exactly :
    (Inv (cap4 .infr [0x01, 0x02, 0x03, 0x04]) ∧ appends 0x05 (cap4 .infr [0x01, 0x02, 0x03, 0x04]) ∧
      (cap4 .infr [0x01, 0x02, 0x03, 0x04]).params.bufCap = some (cap4 .infr [0x01, 0x02, 0x03, 0x04]).len) ∧
    (Inv (cap4 .escp [0x01, 0x02, 0x7D]) ∧ appends 0x7E (cap4 .escp [0x01, 0x02, 0x7D]) ∧
      (cap4 .escp [0x01, 0x02, 0x7D]).params.bufCap ≠ some (cap4 .escp [0x01, 0x02, 0x7D]).len) ∧
    (Inv (lost .infr) ∧ ¬appends 0x7E (lost .infr) ∧ (lost .infr).state = .infr) :=
  ⟨⟨inv_full, .inr (by decide), rfl⟩, ⟨by apply inv_of <;> decide, .inl rfl, by decide⟩,
    inv_lost, by rintro (h | ⟨-, h⟩) <;> exact absurd h (by decide), rfl⟩

theorem witness_QueuedFeedsRunAsAssembleAll : State.reset.params.legal = true := by decide

theorem witness_EscapedSequenceRunsAsUnescape : State.reset.params.legal = true := by decide

/-- The three clauses at the smallest buffers, and the three streams run: `b` and `d` no marker; `d` the marker; `b` the marker. -/
theorem witness_ResynchronisationStreamYieldsTwoFrames :
    (∃ s : State, s.params.legal = true ∧ s.state = .scan ∧ s.params.bufCap = some 2 ∧
      (0x22 : Byte) ≠ s.params.esc ∧ (0x44 : Byte) ≠ s.params.esc ∧ (0x7D : Byte) = s.params.esc ∧ (0x7D : Byte) ≠ 0x7E) ∧
    (∃ s : State, s.params.legal = true ∧ s.state = .scan ∧ s.params.bufCap = some 4 ∧
      (0x7D : Byte) = s.params.esc ∧ (0x11 : Byte) ≠ s.params.esc ∧ (0x33 : Byte) ≠ s.params.esc) :=
  ⟨⟨{ State.reset with params := { std with bufCap := some 2 } }, by decide⟩, cap4 .scan [], by decide⟩

/-- Program P2, and R114's two other cases. -/
theorem test_resynchronisation :
    shown (.assembleAll [0x7E, 0x11, 0x22, 0x7E, 0x33, 0x7E, 0x44, 0x7E]) State.reset =
      some (.scan, [], [.frames [[0x11, 0x22], [0x44]]]) ∧
    shown (.assembleAll [0x7E, 0x11, 0x22, 0x7E, 0x33, 0x7E, 0x7D, 0x7E]) State.reset =
      some (.infr, [0x7D, 0x7E], [.frames [[0x11, 0x22]]]) ∧
    shown (.assembleAll [0x7E, 0x11, 0x7D, 0x7E, 0x33, 0x7E, 0x44, 0x7E]) State.reset =
      some (.infr, [], [.frames [[0x11, 0x7D, 0x7E, 0x33]]]) := by decide

theorem witness_DelimiterAfterMarkerIsSwallowed :
    (cap4 .scan []).params.legal = true ∧ (cap4 .scan []).state = .scan ∧ (cap4 .scan []).params.bufCap = some 4 ∧
    (0x41 : Byte) ≠ 0x7E ∧ (0x41 : Byte) ≠ (cap4 .scan []).params.esc := by decide

/-- The smallest capacity, and a stream that leaves `OVF` at 0. -/
theorem witness_StatePathDoesNotDependOnCapacity :
    State.reset.buf.length ≤ 1 ∧ State.reset.trunc = false ∧ State.reset.state ≠ .done ∧
    (nextOf (exec (.assembleAll [0x7E, 0x41, 0x7E]) { State.reset with params := { std with bufCap := some 1 } })).map
      (fun t => t.ovf) = some false := by decide

/-- C4: the finite and the unbounded buffer really differ in what they return. -/
theorem witness_StatePathDoesNotDependOnCapacity_frames :
    shown (.assembleAll [0x7E, 0x01, 0x02, 0x03, 0x04, 0x7D, 0x7E, 0x09, 0x7E]) (cap4 .scan []) = some (.scan, [], [.frames []]) ∧
    shown (.assembleAll [0x7E, 0x01, 0x02, 0x03, 0x04, 0x7D, 0x7E, 0x09, 0x7E]) State.reset =
      some (.scan, [], [.frames [[0x01, 0x02, 0x03, 0x04, 0x7D, 0x7E, 0x09]]]) := by decide

theorem witness_EscapedSequencesAreTheWellFormedOnes :
    Params.legal std = true ∧ (escape std [0x7E])[0]? = some std.esc := by decide

theorem witness_TwoPassFormsAgreeInTheStatedOrder : Params.legal std = true := by decide

/-- A cut at which `PEND` is 0. -/
theorem witness_StreamingUnescapeAgrees :
    State.reset.params.legal = true ∧ State.reset.pend = false ∧
    (State.unescPuts [0x7D, 0x02] State.reset).1.pend = false := by decide

/-- The byte beside the codes, and the marker itself. -/
theorem witness_IllFormedPairsPassThrough :
    Params.legal std = true ∧ (0x03 : Byte) ≠ std.code1 ∧ (0x03 : Byte) ≠ std.code2 ∧ (0x7D : Byte) ≠ std.code1 ∧
    (0x7D : Byte) ≠ std.code2 := by decide

theorem witness_UnescapeInvertsEscape : State.reset.params.legal = true := by decide

/-- E3 is well-formed and E16 is not. -/
theorem witness_EscapeIsABijectionOntoTheWellFormed :
    Params.legal std = true ∧ escape std (unescape std [0x7D, 0x02]) = [0x7D, 0x02] ∧
    escape std (unescape std [0x7D, 0x7D, 0x02]) = [0x7D, 0x01, 0x7D, 0x02] := by decide

theorem witness_AppendedChecksumSumsToZero : ([0x41, 0x3F, 0x7E] : Bytes) ≠ [] := by decide

theorem witness_ChecksumLawsForSequences : List.Perm ([0x02, 0x01, 0x03] : Bytes) [0x03, 0x02, 0x01] := by decide

theorem witness_StreamingChecksumAgreesAndBitsAreParities : 7 < 8 := by decide

theorem witness_CheckComparesTheTrailingByte : ([0x00] : Bytes) ≠ [] := by decide

/-- F16 and F17; F20; F21; and the non-empty sequences of the last two clauses. -/
theorem witness_CheckDetectsOneChangedByteAndNoReordering :
    (check [0x41, 0x3F, 0x7E] = true ∧ ([0x41, 0x3F, 0x7E] : Bytes)[2]? = some 0x7E ∧ (0x7F : Byte) ≠ 0x7E ∧
      check [0x41, 0x3F, 0x7F] = false) ∧
    List.Perm ([0x41, 0x3F, 0x7E] : Bytes) [0x3F, 0x41, 0x7E] ∧
    (0 ≠ 1 ∧ ([0x41, 0x3F, 0x7E] : Bytes)[0]? = some 0x41 ∧ ([0x41, 0x3F, 0x7E] : Bytes)[1]? = some 0x3F) ∧
    ([] ++ [0x00] : Bytes) ≠ [] ∧ ([] ++ [] ++ [0x00] : Bytes) ≠ [] := by decide

/-- The longest frame of one byte (G3) and the shortest of all (G1). -/
theorem witness_FramedSequenceShape :
    Params.legal std = true ∧ (frame std [0x7E]).length = 6 ∧ (frame std []).length = 3 ∧ (frame std [])[0]? = some 0x7E := by
  decide

/-- A buffer that the frame of G5 just fits. -/
theorem witness_AssembleAllRecoversWhatFrameMade :
    (cap4 .scan []).params.legal = true ∧ (cap4 .scan []).state = .scan ∧
    fits (cap4 .scan []).params (escape (cap4 .scan []).params ([0x41, 0x3F] ++ [checksum [0x41, 0x3F]])) = true := by decide

/-- Two frames, one that fits and one that does not, with gaps. -/
theorem witness_ConcatenatedFramesComeBackInOrder :
    (cap4 .scan []).params.legal = true ∧ (cap4 .scan []).state = .scan ∧
    (∀ x ∈ [(([0x7D] : Bytes), ([0x41] : Bytes)), ([], [0x7E, 0x7E])], 0x7E ∉ x.1) ∧ 0x7E ∉ ([0x00] : Bytes) := by decide

theorem witness_HostAcceptsWhatFrameMade :
    Params.legal std = true ∧ std.verifyChecksum = true ∧ { std with verifyChecksum := false }.verifyChecksum = false := by decide

theorem witness_PureOperationsLeaveTheAssembler : pureOp (.frame [0x41]) = true ∧ (inst .infr [0x11, 0x22]).acc = 0 ∧
    (inst .infr [0x11, 0x22]).pend = false := by decide

/-- Room for one byte more, and none. -/
theorem witness_FeedWritesOnlyTheByteAtLen :
    (cap4 .infr [1, 2, 3]).state = .infr ∧ (cap4 .infr [1, 2, 3]).len = 3 ∧ (0x05 : Byte) ≠ 0x7E ∧
    (cap4 .infr [1, 2, 3, 4]).len = 4 ∧ (lost .escp).state = .escp ∧ (inst .scan []).state = .scan ∧
    0 ≠ (cap4 .infr [1, 2, 3]).len := by decide

theorem witness_BufferIsClearedOrAppendedNeverOverwritten :
    (∀ w, Instr.feed 0x41 ≠ .assembleAll w) ∧ ∃ t, exec (.feed 0x41) (inst .infr [0x30]) = .next t :=
  ⟨fun _ h => (Instr.noConfusion h), _, rfl⟩

theorem witness_HostSideDataIsReadByNoOperation : ∃ t, exec (.unescape [0x7D, 0x02]) State.reset = .next t := ⟨_, rfl⟩

/-- Two instances, one with a FEED presented. -/
theorem witness_StepsOfDifferentInstancesCommute :
    0 ≠ 1 ∧ ∃ m1 m2,
      Instances.stepAt 0 [{ State.reset with pending := [.sym8 0x7E] }, cap4 .infr [0x41]] = .next m1 ∧
      Instances.stepAt 1 [{ State.reset with pending := [.sym8 0x7E] }, cap4 .infr [0x41]] = .next m2 ∧
      Params.legal std = true := ⟨by decide, _, _, rfl, rfl, by decide⟩

end Sys2Proof.Tests
end

section
/-! Constants and the refusal of them (00_scope.md R9, 60_exceptions.md R214): which constants fail the constraints, and what
creation and a step answer for them. -/

namespace Sys2Proof.Machine

/-- Every way to fail P1 to P4 or the positive capacity, one by one (R8, R9). -/
theorem not_legal_iff (p : Params) :
    ¬p.legal = true ↔ p.esc = delim ∨ p.code1 = p.code2 ∨ p.code1 = delim ∨ p.code2 = delim ∨ p.code1 = p.esc ∨
      p.code2 = p.esc ∨ p.bufCap = some 0 := by
  rw [Params.legal_iff]
  tauto

theorem create_of_legal {p : Params} (h : p.legal = true) : State.create p = .next (State.fresh p) := if_pos h

theorem create_of_not_legal {p : Params} (h : ¬p.legal = true) : State.create p = .refused .illegalParameters := if_neg h

theorem fetch_of_not_legal {s : State} (h : ¬s.params.legal = true) : s.fetch = .error .illegalParameters := if_neg h

theorem step_of_not_legal {s : State} (h : ¬s.params.legal = true) : step s = .refused .illegalParameters := by
  rw [step, fetch_of_not_legal h]

/-- Settles O5, by R9's constraints one by one (`not_legal_iff`, `Params.legal_iff`). -/
theorem parametersFailingTheConstraintsAreRefused : Obligations.ParametersFailingTheConstraintsAreRefused := by
  refine ⟨fun p fails => ?_, fun p p1 p2 p3 p3' p4 p4' cap => ?_, ?_⟩
  · have illegal : ¬p.legal = true := (not_legal_iff p).mpr fails
    exact ⟨create_of_not_legal illegal, fun s hs => step_of_not_legal (hs ▸ illegal)⟩
  · have legal : p.legal = true := (Params.legal_iff p).mpr ⟨p1, p2, ⟨p3, p3'⟩, ⟨p4, p4'⟩, cap⟩
    exact ⟨State.fresh p, create_of_legal legal, rfl⟩
  · exact ⟨State.fresh Params.standard, create_of_legal Params.standard_legal, rfl⟩

end Sys2Proof.Machine
end

section
/-! What belongs to the host (R8's two options, what it has yet to issue, what it was handed; log entry 1) is read by no
operation: every operation of the model commutes with replacing it. -/

namespace Sys2Proof.Machine

/-- The parts of a `State` that are the host's own (R8, R30, log entry 1). -/
structure HostSide where
  verifyChecksum : Bool
  validateLength : Bool
  pending : List Packet
  results : List Result

/-- The host's side after it is handed further results. -/
def HostSide.receive (rs : List Result) (h : HostSide) : HostSide := { h with results := h.results ++ rs }

/-- `s` with the host's side replaced by `h`; every element of the block and every constant it reads is as in `s`. -/
def State.withHostSide (h : HostSide) (s : State) : State :=
  { s with params := { s.params with verifyChecksum := h.verifyChecksum, validateLength := h.validateLength },
           pending := h.pending, results := h.results }

/-- `op` completes from `s`, and with any other host's side it reaches the same state and hands over the same results. -/
def ReadsNoHostSide (op : State → Host.Outcome State Fault Refusal) (s : State) : Prop :=
  ∃ t rs, op s = .next t ∧ t.results = s.results ++ rs ∧
    ∀ h, op (s.withHostSide h) = .next (t.withHostSide (h.receive rs))

/-! ### The state's operations -/

@[simp] theorem HostSide.receive_nil (h : HostSide) : h.receive [] = h := by
  simp [HostSide.receive]

theorem withHostSide_hand (h : HostSide) (r : Result) (s : State) :
    (s.withHostSide h).hand r = (s.hand r).withHostSide (h.receive [r]) := rfl

theorem withHostSide_goto (h : HostSide) (v : AsmState) (s : State) :
    (s.withHostSide h).goto v = (s.goto v).withHostSide h := rfl

theorem withHostSide_append (h : HostSide) (b : Byte) (s : State) :
    (s.withHostSide h).append b = (s.append b).withHostSide h := by
  have room : (s.withHostSide h).hasRoom = s.hasRoom := rfl
  unfold State.append
  rw [room]
  cases s.hasRoom <;> rfl

/-! ### The assembler -/

theorem rowOf_withHostSide (h : HostSide) (b : Byte) (s : State) : rowOf (s.withHostSide h) b = rowOf s b := rfl

theorem completeFrame_withHostSide (h : HostSide) (s : State) :
    completeFrame (s.withHostSide h) = ((completeFrame s).1.withHostSide h, (completeFrame s).2) := rfl

/-- Only the rows that append test anything of the state, and that is the room in `BUF` (R107). -/
theorem performRow_withHostSide (row : Row) (h : HostSide) (b : Byte) (s : State) :
    performRow row b (s.withHostSide h) = ((performRow row b s).1.withHostSide h, (performRow row b s).2) := by
  cases row with
  | scanStart | scanElse | infrStop | infrStart => rfl
  | infrEsc | infrOther | escpAny => simp only [performRow, withHostSide_append, withHostSide_goto]

theorem feed_withHostSide (h : HostSide) (b : Byte) (s : State) :
    feed b (s.withHostSide h) = ((feed b s).1.withHostSide h, (feed b s).2) := by
  unfold feed
  rw [rowOf_withHostSide]
  cases rowOf s b with
  | some row => exact performRow_withHostSide row h b s
  | none => simp only [completeFrame_withHostSide, performRow_withHostSide]

theorem assembleAll_withHostSide (h : HostSide) (w : Bytes) (s : State) :
    assembleAll w (s.withHostSide h) = ((assembleAll w s).1.withHostSide h, (assembleAll w s).2) := by
  induction w generalizing s with
  | nil => rfl
  | cons b w ih => simp only [assembleAll, feed_withHostSide, ih]

/-! ### The codec: of the constants it reads `ESC`, `CODE1` and `CODE2` alone -/

theorem escape_withHostSide (h : HostSide) (s : State) (x : Bytes) :
    escape (s.withHostSide h).params x = escape s.params x := rfl

theorem unescape_congr {p q : Params} (esc : p.esc = q.esc) (code1 : p.code1 = q.code1) (code2 : p.code2 = q.code2)
    (t : Bytes) : unescape p t = unescape q t := by
  induction t using unescape.induct q with
  | case1 | case2 => rfl
  | case3 b c t pair ih => simp only [unescape, esc, code1, code2, if_pos pair, ih]
  | case4 b c t noDelim pair ih => simp only [unescape, esc, code1, code2, if_neg noDelim, if_pos pair, ih]
  | case5 b c t noDelim noEsc ih => simp only [unescape, esc, code1, code2, if_neg noDelim, if_neg noEsc, ih]

theorem unescape_withHostSide (h : HostSide) (s : State) (t : Bytes) :
    unescape (s.withHostSide h).params t = unescape s.params t :=
  unescape_congr (p := (s.withHostSide h).params) (q := s.params) rfl rfl rfl t

theorem plain_withHostSide (h : HostSide) (s : State) (c : Code) :
    c.plain (s.withHostSide h).params = c.plain s.params := by
  cases c <;> rfl

theorem frame_withHostSide (h : HostSide) (s : State) (p : Bytes) :
    frame (s.withHostSide h).params p = frame s.params p := rfl

/-! ### How an operation completes -/

theorem ReadsNoHostSide.congr {op op' : State → Host.Outcome State Fault Refusal} {s : State}
    (reads : ReadsNoHostSide op s) (same : op' s = op s)
    (same' : ∀ h, op' (s.withHostSide h) = op (s.withHostSide h)) : ReadsNoHostSide op' s := by
  obtain ⟨t, rs, completes, results, other⟩ := reads
  exact ⟨t, rs, same.trans completes, results, fun h => (same' h).trans (other h)⟩

/-- Completing without a result. -/
theorem next_readsNoHostSide {f : State → State} {s : State} (results : (f s).results = s.results)
    (state : ∀ h, f (s.withHostSide h) = (f s).withHostSide h) : ReadsNoHostSide (fun s => .next (f s)) s :=
  ⟨f s, [], rfl, by simp [results], fun h => by simp [state]⟩

/-- Completing with a result. -/
theorem complete_readsNoHostSide {f : State → State} {r : State → Result} {s : State}
    (results : (f s).results = s.results) (state : ∀ h, f (s.withHostSide h) = (f s).withHostSide h)
    (result : ∀ h, r (s.withHostSide h) = r s) : ReadsNoHostSide (fun s => complete (r s) (f s)) s :=
  ⟨(f s).hand (r s), [r s], rfl, by simp [results], fun h => by simp [complete, state, result, withHostSide_hand]⟩

theorem completeWorking_readsNoHostSide {r : State → Result} {s : State} (result : ∀ h, r (s.withHostSide h) = r s) :
    ReadsNoHostSide (fun s => completeWorking (r s) s) s :=
  complete_readsNoHostSide (f := State.clearWorking) rfl (fun _ => rfl) result

theorem feedAndHand_readsNoHostSide (b : Byte) (s : State) : ReadsNoHostSide (feedAndHand b) s :=
  complete_readsNoHostSide (feed_leaves b s).2.2.2.2 (fun h => by rw [feed_withHostSide])
    (fun h => by rw [feed_withHostSide])

/-- The host's side does not decide whether a row is selected. -/
theorem performIfSelected_readsNoHostSide (row : Row) (b : Byte) (s : State) :
    ReadsNoHostSide (performIfSelected row b) s := by
  by_cases selected : rowOf s b = some row
  · have performed : ReadsNoHostSide (fun s => complete (.frame (performRow row b s).2) (performRow row b s).1) s :=
      complete_readsNoHostSide (performRow_leaves row b s).2.2.2.2 (fun h => by rw [performRow_withHostSide])
        (fun h => by rw [performRow_withHostSide])
    exact performed.congr (performIfSelected_of_selected row b s selected)
      fun h => performIfSelected_of_selected row b (s.withHostSide h) selected
  · have skipped : ReadsNoHostSide .next s := next_readsNoHostSide (f := id) rfl fun _ => rfl
    exact skipped.congr (performIfSelected_of_not_selected row b s selected)
      fun h => performIfSelected_of_not_selected row b (s.withHostSide h) selected

theorem unescapeCode_readsNoHostSide (c : Code) (s : State) : ReadsNoHostSide (unescapeCode c) s :=
  complete_readsNoHostSide (f := id) rfl (fun _ => rfl) fun h => by rw [plain_withHostSide]

/-! ### Every instruction -/

theorem exec_readsNoHostSide (i : Instr) (s : State) : ReadsNoHostSide (exec i) s := by
  cases i with
  | idle => exact next_readsNoHostSide (f := id) rfl fun _ => rfl
  | arst => exact next_readsNoHostSide (f := State.resetInstance) rfl fun _ => rfl
  | feed b | symOther b => exact feedAndHand_readsNoHostSide b s
  | symDelim => exact feedAndHand_readsNoHostSide delim s
  | symEsc => exact feedAndHand_readsNoHostSide s.params.esc s
  | assembleAll w =>
    exact complete_readsNoHostSide (assembleAll_leaves w s).2.2.2.2 (fun h => by rw [assembleAll_withHostSide])
      (fun h => by rw [assembleAll_withHostSide])
  | escape x => exact complete_readsNoHostSide (f := id) rfl (fun _ => rfl) fun h => by rw [escape_withHostSide]
  | unescape t => exact completeWorking_readsNoHostSide fun h => by rw [unescape_withHostSide]
  | frame p => exact completeWorking_readsNoHostSide fun h => by rw [frame_withHostSide]
  | checksum p | check u => exact completeWorking_readsNoHostSide fun _ => rfl
  | feedScanStart | feedScanElse b | feedInfrStop | feedInfrStart | feedInfrEsc | feedInfrOther b | feedEscpAny b =>
    exact performIfSelected_readsNoHostSide _ _ s
  | pairDelim | pairEsc | lit v | pairIll => exact unescapeCode_readsNoHostSide _ s

/-- Settles O59, from `exec_readsNoHostSide`: what an operation hands over is what it adds to the results before it. -/
theorem hostSideDataIsReadByNoOperation : Obligations.HostSideDataIsReadByNoOperation := by
  intro i s t v l ks before completes
  obtain ⟨t', rs, completes', results, other⟩ := exec_readsNoHostSide i s
  obtain rfl : t' = t := Host.Outcome.next.inj (completes'.symm.trans completes)
  have handed : t'.results.drop s.results.length = rs := by rw [results, List.drop_left]
  rw [handed]
  exact other ⟨v, l, ks, before⟩

end Sys2Proof.Machine
end

section
/-! What FEED and every other instruction can do to the elements of the block, said once: each statement about all instructions
is a case split on `ExecEffect`, and each about FEED a case split on `FeedEffect`. -/

namespace Sys2Proof.Machine

/-- Two states with the same constants and the same block; their working registers and the host's lists may differ. -/
structure State.SameAssembler (t u : State) : Prop where
  params : t.params = u.params
  state : t.state = u.state
  buf : t.buf = u.buf
  trunc : t.trunc = u.trunc
  ovf : t.ovf = u.ovf

/-- All that FEED can leave behind: the state as it was (R101b), an emptied buffer (R101a, R102, log entry 5), or one append
(R104 to R106). -/
inductive FeedEffect (b : Byte) (s : State) : State → Prop where
  | discards (scan : s.state = .scan) (other : b ≠ delim) : FeedEffect b s s
  | clears (v : AsmState) (resting : v = .scan ∨ v = .infr) (noAppend : ¬Spec.appends b s) :
      FeedEffect b s (s.clearFrame.goto v)
  | appends (v : AsmState) (inFrame : v = .infr ∨ v = .escp ∧ b = s.params.esc) (appends : Spec.appends b s) :
      FeedEffect b s ((s.append b).goto v)

theorem feed_effect (b : Byte) (s : State) : FeedEffect b s (feed b s).1 := by
  cases hs : s.state with
  | scan =>
    rw [feed_of_scan b s hs]
    by_cases hb : b = delim
    · rw [if_pos hb]
      exact .clears _ (.inr rfl) (by simp [Spec.appends, hs])
    · rw [if_neg hb]
      exact .discards hs hb
  | infr =>
    by_cases hb : b = delim
    · rw [hb, feed_delim_of_infr s hs]
      exact .clears _ (.inl rfl) (by simp [Spec.appends, hs, delim])
    · rw [feed_of_infr b s hs hb]
      refine .appends _ ?_ (.inr ⟨hs, hb⟩)
      by_cases he : b = s.params.esc <;> simp [he]
  | escp =>
    rw [feed_of_escp b s hs]
    exact .appends _ (.inl rfl) (.inl hs)
  | done =>
    rw [feed_of_done b s hs]
    refine .clears _ ?_ (by simp [Spec.appends, hs])
    by_cases hb : b = delim <;> simp [hb]

/-- What every FEED keeps, ASSEMBLE_ALL keeps (R111). -/
theorem assembleAll_preserves {P : State → Prop} (feed_preserves : ∀ b s, P s → P (feed b s).1) (w : Bytes) (s : State)
    (holds : P s) : P (assembleAll w s).1 := by
  induction w generalizing s with
  | nil => exact holds
  | cons b w ih => exact ih _ (feed_preserves b s holds)

/-- All that an instruction can do to the constants and the block. -/
inductive ExecEffect (s t : State) : Instr → Prop where
  | leaves {i : Instr} (same : t.SameAssembler s) : ExecEffect s t i
  | feeds {i : Instr} (b : Byte) (notPure : Spec.pureOp i = false) (same : t.SameAssembler (feed b s).1) : ExecEffect s t i
  | resets (same : t.SameAssembler s.resetInstance) : ExecEffect s t .arst
  | assembles (w : Bytes) (same : t.SameAssembler (assembleAll w s).1) : ExecEffect s t (.assembleAll w)

theorem sameAssembler_of_next {u t : State} (h : (.next u : Host.Outcome State Fault Refusal) = .next t) :
    t.SameAssembler u := by
  cases h
  exact ⟨rfl, rfl, rfl, rfl, rfl⟩

theorem sameAssembler_of_complete {r : Result} {u t : State} (h : complete r u = .next t) : t.SameAssembler u := by
  cases h
  exact ⟨rfl, rfl, rfl, rfl, rfl⟩

theorem sameAssembler_of_completeWorking {r : Result} {u t : State} (h : completeWorking r u = .next t) :
    t.SameAssembler u := by
  cases h
  exact ⟨rfl, rfl, rfl, rfl, rfl⟩

/-- FEED performs the row that is selected (R100). -/
theorem feed_of_selected {row : Row} {b : Byte} {s : State} (selected : rowOf s b = some row) :
    feed b s = performRow row b s := by
  simp only [feed, selected]

/-- A row presented by itself either does what FEED does or nothing (log entry 9). -/
theorem performIfSelected_effect {i : Instr} {row : Row} {b : Byte} {s t : State} (notPure : Spec.pureOp i = false)
    (h : performIfSelected row b s = .next t) : ExecEffect s t i := by
  by_cases selected : rowOf s b = some row
  · rw [performIfSelected_of_selected row b s selected, ← feed_of_selected selected] at h
    exact .feeds b notPure (sameAssembler_of_complete h)
  · rw [performIfSelected_of_not_selected row b s selected] at h
    exact .leaves (sameAssembler_of_next h)

theorem exec_effect {i : Instr} {s t : State} (h : exec i s = .next t) : ExecEffect s t i := by
  cases i with
  | idle => exact .leaves (sameAssembler_of_next h)
  | arst => exact .resets (sameAssembler_of_next h)
  | feed b | symOther b => exact .feeds b rfl (sameAssembler_of_complete h)
  | symDelim => exact .feeds delim rfl (sameAssembler_of_complete h)
  | symEsc => exact .feeds s.params.esc rfl (sameAssembler_of_complete h)
  | assembleAll w => exact .assembles w (sameAssembler_of_complete h)
  | escape x => exact .leaves (sameAssembler_of_complete h)
  | unescape t | checksum p | check u | frame p => exact .leaves (sameAssembler_of_completeWorking h)
  | feedScanStart | feedScanElse b | feedInfrStop | feedInfrStart | feedInfrEsc | feedInfrOther b | feedEscpAny b =>
    exact performIfSelected_effect rfl h
  | pairDelim | pairEsc | lit v | pairIll => exact .leaves (sameAssembler_of_complete h)

/-- The operations of R45's list, and the codes of the escaped domain, leave the block. -/
theorem exec_pureOp_same {i : Instr} {s t : State} (pureOp : Spec.pureOp i = true) (h : exec i s = .next t) :
    t.SameAssembler s := by
  cases exec_effect h with
  | leaves same => exact same
  | feeds b notPure same => simp [notPure] at pureOp
  | resets same | assembles w same => cases pureOp

theorem exec_completes (i : Instr) (s : State) : ∃ t, exec i s = .next t := by
  obtain ⟨t, _, completes, _⟩ := exec_readsNoHostSide i s
  exact ⟨t, completes⟩

theorem exec_feed (b : Byte) (s : State) : exec (.feed b) s = .next ((feed b s).1.hand (.frame (feed b s).2)) := rfl

/-- A FEED that completes leaves what `FeedEffect` says, up to the host's lists. -/
theorem exec_feed_effect {b : Byte} {s t : State} (h : exec (.feed b) s = .next t) :
    ∃ u, FeedEffect b s u ∧ t.SameAssembler u :=
  ⟨_, feed_effect b s, sameAssembler_of_complete h⟩

/-! ### The step -/

/-- Fetching takes a packet from the host's list and touches nothing else. -/
theorem fetch_same {s s' : State} {i : Instr} (h : s.fetch = .ok (i, s')) : s'.SameAssembler s := by
  unfold State.fetch at h
  split at h
  · split at h
    · cases h
      exact ⟨rfl, rfl, rfl, rfl, rfl⟩
    · split at h
      · cases h
        exact ⟨rfl, rfl, rfl, rfl, rfl⟩
      · cases h
  · cases h

/-- A step that completes executes the instruction it fetched. -/
theorem step_executes {s t : State} (h : step s = .next t) : ∃ i s', s.fetch = .ok (i, s') ∧ exec i s' = .next t := by
  unfold step at h
  split at h
  · exact ⟨_, _, ‹_›, h⟩
  · cases h

end Sys2Proof.Machine
end

section
/-! The invariants of R31 hold at reset, and every operation and every step keeps them. -/

namespace Sys2Proof.Machine

/-- The invariants speak of the constants and the block alone. -/
theorem State.SameAssembler.inv {s t : State} (same : t.SameAssembler s) (inv : Inv s) : Inv t := by
  obtain ⟨params, state, buf, trunc, ovf⟩ := same
  have len : t.len = s.len := by rw [State.len, State.len, buf]
  have memRead : t.memRead = s.memRead := by funext i; rw [State.memRead, State.memRead, buf]
  constructor <;> simp only [params, state, buf, trunc, ovf, len, memRead]
  exacts [inv.legal, inv.resting, inv.scanEmpty, inv.pendingMarker, inv.bounded, inv.truncated, inv.delimAfterEsc,
    inv.unbounded]

/-- An empty buffer that has lost nothing satisfies every invariant, outside a frame and at the start of one. -/
theorem inv_of_empty {s : State} (legal : s.params.legal = true) (resting : s.state = .scan ∨ s.state = .infr)
    (empty : s.buf = []) (whole : s.trunc = false) (unbounded : s.params.bufCap = none → s.ovf = false) : Inv s where
  legal := legal
  resting done := by simp [done] at resting
  scanEmpty _ := ⟨empty, whole⟩
  pendingMarker escp := by simp [escp] at resting
  bounded n _ := by simp [State.len, empty]
  truncated lost := by simp [whole] at lost
  delimAfterEsc i read := by simp [State.memRead, empty] at read
  unbounded inf := ⟨whole, unbounded inf⟩

theorem inv_fresh {p : Params} (legal : p.legal = true) : Inv (State.fresh p) :=
  inv_of_empty legal (.inl rfl) rfl rfl fun _ => rfl

theorem inv_resetInstance {s : State} (inv : Inv s) : Inv s.resetInstance :=
  inv_of_empty inv.legal (.inl rfl) rfl rfl fun _ => rfl

theorem inv_clearFrame_goto {s : State} (inv : Inv s) {v : AsmState} (resting : v = .scan ∨ v = .infr) :
    Inv (s.clearFrame.goto v) :=
  inv_of_empty inv.legal resting rfl rfl fun inf => (inv.unbounded inf).2

/-- Under the invariants the buffer has no room exactly when `LEN == BUF_CAP` (R107, R31 (I-d)). -/
theorem hasRoom_eq_false_iff {s : State} (inv : Inv s) : s.hasRoom = false ↔ s.params.bufCap = some s.len := by
  cases cap : s.params.bufCap with
  | none => simp [State.hasRoom_of_unbounded s cap]
  | some n =>
    have fits := inv.bounded n cap
    rw [← Bool.not_eq_true, State.hasRoom_iff_of_bounded s n cap, Option.some.injEq]
    omega

/-- While there is room the frame has lost no byte (R31 (I-e)). -/
theorem not_trunc_of_hasRoom {s : State} (inv : Inv s) (room : s.hasRoom = true) : s.trunc = false := by
  by_contra lost
  have full : s.params.bufCap = some s.len := (inv.truncated (by simpa using lost)).2
  rw [(hasRoom_eq_false_iff inv).mpr full] at room
  cases room

/-- In ESCAPE-PENDING with room, the byte before the one to come is the marker (R31 (I-c), (I-e)). -/
theorem memRead_last_of_escp {s : State} (inv : Inv s) (room : s.hasRoom = true) (escp : s.state = .escp) :
    1 ≤ s.len ∧ s.memRead (s.len - 1) = some s.params.esc := by
  have last : s.buf.getLast? = some s.params.esc := by
    simpa [not_trunc_of_hasRoom inv room] using inv.pendingMarker escp
  refine ⟨?_, by rw [State.memRead, State.len, ← List.getLast?_eq_getElem?, last]⟩
  cases empty : s.buf with
  | nil => simp [empty] at last
  | cons => simp [State.len, empty]

/-- R31 (I-f) over a stored byte: a delimiter is stored only in ESCAPE-PENDING, after the marker. -/
theorem delimAfterEsc_memAppend {b : Byte} {s : State} (inv : Inv s) (appends : Spec.appends b s) (room : s.hasRoom = true)
    (i : Nat) (read : (s.memAppend b).memRead i = some delim) :
    1 ≤ i ∧ (s.memAppend b).memRead (i - 1) = some s.params.esc := by
  by_cases new : i = s.len
  · subst new
    have isDelim : b = delim := by simpa [State.memRead_memAppend_len] using read
    have escp : s.state = .escp := appends.resolve_right fun infr => infr.2 isDelim
    obtain ⟨pos, marker⟩ := memRead_last_of_escp inv room escp
    exact ⟨pos, by rw [State.memRead_memAppend_of_ne b s _ (by omega), marker]⟩
  · rw [State.memRead_memAppend_of_ne b s i new] at read
    have inside : i < s.len := (List.getElem?_eq_some_iff.mp read).1
    obtain ⟨pos, marker⟩ := inv.delimAfterEsc i read
    exact ⟨pos, by rw [State.memRead_memAppend_of_ne b s _ (by omega), marker]⟩

section Append
variable {b : Byte} {s : State} {v : AsmState} (inv : Inv s) (inFrame : v = .infr ∨ v = .escp ∧ b = s.params.esc)
include inv inFrame

theorem inv_memAppend_goto (appends : Spec.appends b s) (room : s.hasRoom = true) : Inv ((s.memAppend b).goto v) where
  legal := inv.legal
  resting done := by simp_all
  scanEmpty scan := by simp_all
  pendingMarker escp := by simp_all
  bounded n cap := by
    have fits : s.len < n := (State.hasRoom_iff_of_bounded s n cap).mp room
    simpa [State.len] using fits
  truncated lost := by simp [not_trunc_of_hasRoom inv room] at lost
  delimAfterEsc := delimAfterEsc_memAppend inv appends room
  unbounded := inv.unbounded

theorem inv_raiseBufferOverflow_goto (noRoom : s.hasRoom = false) : Inv (s.raiseBufferOverflow.goto v) where
  legal := inv.legal
  resting done := by simp_all
  scanEmpty scan := by simp_all
  pendingMarker _ := .inl rfl
  bounded := inv.bounded
  truncated _ := ⟨rfl, (hasRoom_eq_false_iff inv).mp noRoom⟩
  delimAfterEsc := inv.delimAfterEsc
  unbounded inf := by simp [State.hasRoom_of_unbounded s inf] at noRoom

theorem inv_append_goto (appends : Spec.appends b s) : Inv ((s.append b).goto v) := by
  rcases State.append_cases b s with ⟨room, stored⟩ | ⟨noRoom, raised⟩
  · rw [stored]
    exact inv_memAppend_goto inv inFrame appends room
  · rw [raised]
    exact inv_raiseBufferOverflow_goto inv inFrame noRoom

end Append

theorem FeedEffect.inv {b : Byte} {s t : State} (effect : FeedEffect b s t) (inv : Inv s) : Inv t := by
  cases effect with
  | discards => exact inv
  | clears v resting => exact inv_clearFrame_goto inv resting
  | appends v inFrame appends => exact inv_append_goto inv inFrame appends

theorem inv_feed (b : Byte) (s : State) (inv : Inv s) : Inv (feed b s).1 := (feed_effect b s).inv inv

theorem exec_inv {i : Instr} {s t : State} (inv : Inv s) (h : exec i s = .next t) : Inv t := by
  cases exec_effect h with
  | leaves same => exact same.inv inv
  | feeds b _ same => exact same.inv (inv_feed b s inv)
  | resets same => exact same.inv (inv_resetInstance inv)
  | assembles w same => exact same.inv (assembleAll_preserves inv_feed w s inv)

theorem step_inv {s t : State} (inv : Inv s) (h : step s = .next t) : Inv t := by
  obtain ⟨i, s', fetched, executed⟩ := step_executes h
  exact exec_inv ((fetch_same fetched).inv inv) executed

/-- Settles O3, by `exec_inv`: each of the four effects an instruction can have keeps the invariants, and a step is a fetch,
which leaves the block, and one instruction. -/
theorem everyStepKeepsTheInvariants : Obligations.EveryStepKeepsTheInvariants :=
  ⟨inv_fresh Params.standard_legal, fun _ _ _ => exec_inv, fun _ _ => step_inv⟩

end Sys2Proof.Machine
end

section
/-! How the two flags (R24) and the buffer (R22) change. -/

namespace Sys2Proof.Machine

/-- FEED never clears `OVF` (R24). -/
theorem FeedEffect.ovf_sticky {b : Byte} {s t : State} (effect : FeedEffect b s t) (set : s.ovf = true) : t.ovf = true := by
  cases effect with
  | discards | clears => exact set
  | appends v =>
    rcases State.append_cases b s with ⟨_, e⟩ | ⟨_, e⟩
    · simpa [e] using set
    · simp [e]

/-- FEED sets either flag only by raising the overflow, which sets both and needs a finite capacity (R107). -/
theorem FeedEffect.overflow {b : Byte} {s t : State} (effect : FeedEffect b s t)
    (sets : s.ovf = false ∧ t.ovf = true ∨ s.trunc = false ∧ t.trunc = true) :
    t.trunc = true ∧ t.ovf = true ∧ s.params.bufCap ≠ none := by
  cases effect with
  | discards | clears => simp_all
  | appends v =>
    rcases State.append_cases b s with ⟨_, e⟩ | ⟨noRoom, e⟩
    · simp_all
    · refine ⟨by simp [e], by simp [e], fun inf => ?_⟩
      simp [State.hasRoom_of_unbounded s inf] at noRoom

/-- Under the invariants FEED leaves each flag as R24 says. -/
theorem FeedEffect.flags {b : Byte} {s t : State} (effect : FeedEffect b s t) (inv : Inv s) :
    (t.trunc = true ↔ Spec.appends b s ∧ s.params.bufCap = some s.len) ∧
      (t.ovf = true ↔ s.ovf = true ∨ Spec.appends b s ∧ s.params.bufCap = some s.len) := by
  rw [← hasRoom_eq_false_iff inv]
  cases effect with
  | discards scan => simp [Spec.appends, scan, (inv.scanEmpty scan).2]
  | clears v _ noAppend => simp [noAppend]
  | appends v _ appends =>
    rcases State.append_cases b s with ⟨room, e⟩ | ⟨noRoom, e⟩
    · simp [e, room, not_trunc_of_hasRoom inv room]
    · simp [e, noRoom, appends]

/-- A delimiter that opens or closes a frame clears the buffer and `TRUNC` (R101, R102). -/
theorem feed_delim_clears {s : State} (h : s.state = .scan ∨ s.state = .infr) :
    ∃ v, (feed delim s).1 = s.clearFrame.goto v := by
  rcases h with scan | infr
  · exact ⟨.infr, by rw [feed_of_scan delim s scan, if_pos rfl]⟩
  · exact ⟨.scan, by rw [feed_delim_of_infr s infr]⟩

theorem exec_ovf_sticky {i : Instr} {s t : State} (h : exec i s = .next t) (notArst : i ≠ .arst) (set : s.ovf = true) :
    t.ovf = true := by
  have feed_sticky (b : Byte) (s : State) (set : s.ovf = true) : (feed b s).1.ovf = true := (feed_effect b s).ovf_sticky set
  cases exec_effect h with
  | leaves same => exact same.ovf.trans set
  | feeds b _ same => exact same.ovf.trans (feed_sticky b s set)
  | resets => exact absurd rfl notArst
  | assembles w same => exact same.ovf.trans (assembleAll_preserves (P := fun s => s.ovf = true) feed_sticky w s set)

/-- Settles O26, from what one FEED can do to each flag (`FeedEffect.overflow`, `FeedEffect.flags`). -/
theorem flagsAreWrittenAsTheRuleSays : Obligations.FlagsAreWrittenAsTheRuleSays := by
  refine ⟨fun _ _ _ => exec_ovf_sticky, fun i s t h pure => ?_, fun b s t h clear set => ?_, fun b s t h clear set => ?_,
    fun b s inv => ⟨_, exec_feed b s, (feed_effect b s).flags inv⟩, fun s open_or_close => ?_,
    fun s => ⟨s.resetInstance, rfl, rfl, rfl⟩⟩
  · have same := exec_pureOp_same pure h
    exact ⟨same.ovf, same.trunc⟩
  · obtain ⟨u, effect, same⟩ := exec_feed_effect h
    obtain ⟨trunc, _, finite⟩ := effect.overflow (.inl ⟨clear, same.ovf ▸ set⟩)
    exact ⟨same.trunc.trans trunc, finite⟩
  · obtain ⟨u, effect, same⟩ := exec_feed_effect h
    obtain ⟨_, ovf, _⟩ := effect.overflow (.inr ⟨clear, same.trunc ▸ set⟩)
    exact same.ovf.trans ovf
  · obtain ⟨v, cleared⟩ := feed_delim_clears open_or_close
    exact ⟨_, exec_feed delim s, by simp [cleared], by simp [cleared]⟩

/-- R22 for one FEED. -/
theorem FeedEffect.buf {b : Byte} {s t : State} (effect : FeedEffect b s t) :
    t.buf = s.buf ∨ t.buf = [] ∨ t.buf = s.buf ++ [b] := by
  cases effect with
  | discards => exact .inl rfl
  | clears => exact .inr (.inl rfl)
  | appends v =>
    rcases State.append_cases b s with ⟨_, e⟩ | ⟨_, e⟩
    · exact .inr (.inr (by simp [e]))
    · exact .inl (by simp [e])

/-- Settles O58, by the effects an instruction can have: it leaves the buffer, resets it or feeds one byte. -/
theorem bufferIsClearedOrAppendedNeverOverwritten : Obligations.BufferIsClearedOrAppendedNeverOverwritten := by
  intro i s t notLoop h
  cases exec_effect h with
  | leaves same => exact .inl same.buf
  | feeds b _ same =>
    rw [same.buf]
    exact (feed_effect b s).buf.imp_right (Or.imp_right fun appended => ⟨b, appended⟩)
  | resets same => exact .inr (.inl same.buf)
  | assembles w => exact absurd rfl (notLoop w)

end Sys2Proof.Machine
end

section
/-! Instances side by side (R33, R211). -/

namespace Sys2Proof.Machine

/-- A step at place `k` is a step of the state at place `k`, put back at that place. -/
theorem stepAt_eq_next_iff {k : Nat} {m m' : Instances} :
    Instances.stepAt k m = .next m' ↔ ∃ s t, m[k]? = some s ∧ step s = .next t ∧ m' = m.set k t := by
  unfold Instances.stepAt
  cases m[k]? with
  | none => simp
  | some s => cases h : step s <;> simp [h, eq_comm]

theorem accept_of_legal {p : Params} (m : Instances) (legal : p.legal = true) :
    Instances.accept p m = .next (m ++ [State.fresh p]) := by
  simp only [Instances.accept, create_of_legal legal]

/-- Settles O60: a step writes its own place of the list only, and two writes at different places commute. -/
theorem stepsOfDifferentInstancesCommute : Obligations.StepsOfDifferentInstancesCommute := by
  refine ⟨fun m m1 m2 j k apart first second => ?_, fun m p legal => accept_of_legal m legal⟩
  obtain ⟨s, s', atJ, stepJ, rfl⟩ := stepAt_eq_next_iff.mp first
  obtain ⟨t, t', atK, stepK, rfl⟩ := stepAt_eq_next_iff.mp second
  refine ⟨fun n other => List.getElem?_set_ne other.symm, (m.set j s').set k t', ?_, ?_⟩
  · exact stepAt_eq_next_iff.mpr ⟨t, t', by rw [List.getElem?_set_ne apart, atK], stepK, rfl⟩
  · exact stepAt_eq_next_iff.mpr
      ⟨s, s', by rw [List.getElem?_set_ne apart.symm, atJ], stepJ, List.set_comm s' t' apart⟩

end Sys2Proof.Machine
end

section
/-! Reset values (R32), the encoding of `STATE` (R21) and the status outputs (R25), and FEED where `STATE` is DONE (R28). -/

namespace Sys2Proof.Machine

theorem resetValues_fresh (p : Params) : Spec.ResetValues (State.fresh p) :=
  ⟨rfl, rfl, rfl, rfl, rfl, rfl, rfl, rfl⟩

theorem resetValues_resetInstance (s : State) : Spec.ResetValues s.resetInstance :=
  ⟨rfl, rfl, rfl, rfl, rfl, rfl, rfl, rfl⟩

/-- Settles O1: power-on and creation give a fresh state, ARST a reset one, and every operation completes
(`exec_completes`). -/
theorem resetGivesEveryElementItsValue : Obligations.ResetGivesEveryElementItsValue :=
  ⟨resetValues_fresh Params.standard,
    fun p legal => ⟨State.fresh p, create_of_legal legal, rfl, resetValues_fresh p⟩,
    fun s => ⟨s.resetInstance, rfl, resetValues_resetInstance s⟩,
    fun i => exec_completes i State.reset⟩

/-- The two bits of R21 determine the value of `STATE`. -/
@[simp] theorem ofCode_code (v : AsmState) : AsmState.ofCode v.code = v := by
  cases v <;> rfl

/-- Settles O13: the codes one by one, `ofCode_code`, and the outputs as they are defined. -/
theorem statusOutputsShowTheStateElements : Obligations.StatusOutputsShowTheStateElements :=
  ⟨rfl, rfl, rfl, rfl, ofCode_code, fun _ => rfl, rfl⟩

/-- Settles O19, by `feed_of_done`. -/
theorem feedInDoneFirstCompletesTheFrame : Obligations.FeedInDoneFirstCompletesTheFrame := by
  intro s b done
  rw [exec_feed, feed_of_done b s done]
  rfl

end Sys2Proof.Machine
end

section
/-! The frame of the operations that touch no state of the assembler (R45, R166), and of FEED (R40). -/

namespace Sys2Proof.Machine

/-! ### Operations that touch no state of the assembler -/

theorem clearWorking_of_initial {s : State} (acc : s.acc = 0) (pend : s.pend = false) : s.clearWorking = s := by
  rw [State.clearWorking, ← acc, ← pend]

/-- All that such an operation can do: hand over results, after resetting the working registers or not (R27, log entry 6). -/
theorem exec_pureOp_cases {i : Instr} (s : State) (pureOp : Spec.pureOp i = true) :
    ∃ u rs, (u = s ∨ u = s.clearWorking) ∧ exec i s = .next { u with results := s.results ++ rs } := by
  cases i with
  | idle => exact ⟨s, [], .inl rfl, by rw [List.append_nil]; rfl⟩
  | escape | pairDelim | pairEsc | lit | pairIll => exact ⟨s, [_], .inl rfl, rfl⟩
  | unescape | checksum | check | frame => exact ⟨s.clearWorking, [_], .inr rfl, rfl⟩
  | feed | arst | assembleAll | symDelim | symEsc | symOther | feedScanStart | feedScanElse | feedInfrStop
  | feedInfrStart | feedInfrEsc | feedInfrOther | feedEscpAny => cases pureOp

/-- Settles O56, by the two ways such an operation completes (`exec_pureOp_cases`). -/
theorem pureOperationsLeaveTheAssembler : Obligations.PureOperationsLeaveTheAssembler := by
  intro i s pureOp
  obtain ⟨u, rs, rfl | rfl, completes⟩ := exec_pureOp_cases s pureOp
  · exact ⟨_, completes, rfl, rfl, rfl, fun _ => rfl, .inl ⟨rfl, rfl⟩, fun _ _ => ⟨rs, rfl⟩⟩
  · refine ⟨_, completes, rfl, rfl, rfl, fun _ => rfl, .inr ⟨rfl, rfl⟩, fun acc pend => ⟨rs, ?_⟩⟩
    rw [clearWorking_of_initial acc pend]

/-! ### FEED -/

theorem hasRoom_eq_all (s : State) : s.hasRoom = s.params.bufCap.all fun n => decide (s.len < n) := by
  unfold State.hasRoom
  cases s.params.bufCap <;> rfl

theorem State.memRead_hand (r : Result) (s : State) (a : Nat) : (s.hand r).memRead a = s.memRead a := rfl

/-- An append writes at index `LEN` only (R40, R107). -/
theorem memRead_append_of_ne (b : Byte) {s : State} {a : Nat} (other : a ≠ s.len) :
    (s.append b).memRead a = s.memRead a := by
  rcases State.append_cases b s with ⟨_, e⟩ | ⟨_, e⟩
  · rw [e, State.memRead_memAppend_of_ne b s a other]
  · rw [e, State.memRead_raiseBufferOverflow]

/-- An append writes when there is room only (R107). -/
theorem memRead_append_len (b : Byte) (s : State) :
    (s.append b).memRead s.len = if s.hasRoom then some b else none := by
  rcases State.append_cases b s with ⟨room, e⟩ | ⟨noRoom, e⟩
  · rw [e, State.memRead_memAppend_len, if_pos room]
  · rw [e, State.memRead_raiseBufferOverflow, if_neg (by simp [noRoom])]
    exact List.getElem?_eq_none le_rfl

/-- Where FEED performs a row that appends, the buffer is left as the append leaves it (R104 to R106). -/
theorem memRead_feed_of_appends {b : Byte} {s : State} (appends : Spec.appends b s) (a : Nat) :
    (feed b s).1.memRead a = (s.append b).memRead a := by
  have effect := feed_effect b s
  generalize (feed b s).1 = t at effect
  cases effect with
  | discards scan => simp [Spec.appends, scan] at appends
  | clears _ _ noAppend => exact absurd appends noAppend
  | appends => rfl

/-- A byte discarded in `SCAN` changes nothing (R101b). -/
theorem feed_scan_discards {b : Byte} {s : State} (scan : s.state = .scan) (other : b ≠ delim) : (feed b s).1 = s := by
  rw [feed_of_scan b s scan, if_neg other]

/-- No row of `SCAN` appends, so none raises the overflow (R101). -/
theorem feed_scan_ovf (b : Byte) {s : State} (scan : s.state = .scan) : (feed b s).1.ovf = s.ovf := by
  rw [feed_of_scan b s scan]
  split <;> rfl

/-- Settles O57, one kind of row per clause: it appends, discards, or opens or closes a frame. -/
theorem feedWritesOnlyTheByteAtLen : Obligations.FeedWritesOnlyTheByteAtLen := by
  intro s b _
  obtain ⟨params, acc, pend, pending, _⟩ := feed_leaves b s
  refine ⟨_, exec_feed b s, params, acc, pend, pending, fun appends => ⟨fun a other => ?_, ?_⟩,
    fun ⟨scan, other⟩ a => ?_, fun ⟨opens_or_closes, isDelim⟩ => ?_, feed_scan_ovf b⟩
  · rw [State.memRead_hand, memRead_feed_of_appends appends, memRead_append_of_ne b other]
  · rw [State.memRead_hand, memRead_feed_of_appends appends, memRead_append_len, hasRoom_eq_all]
  · rw [State.memRead_hand, feed_scan_discards scan other]
  · obtain ⟨v, cleared⟩ := feed_delim_clears opens_or_closes
    subst isDelim
    exact congrArg State.len cleared

end Sys2Proof.Machine
end

section
/-! The codes of the escaped domain (R64 to R66): what the scan reads at the head of a sequence, said once as `HeadCode`; the
cutting of a sequence into codes; and the run of an escaped sequence code by code (log entry 10). -/

namespace Sys2Proof.Machine

/-! ### The code at the head of a sequence -/

section Head
variable {p : Params}

theorem nextCode_lit {b : Byte} (literal : b ≠ p.esc) (t : Bytes) : nextCode p b t = (.lit b, t) := if_neg literal

theorem nextCode_pairDelim (t : Bytes) : nextCode p p.esc (p.code1 :: t) = (.pairDelim, t) := by
  simp [nextCode]

theorem nextCode_pairEsc (distinct : p.code1 ≠ p.code2) (t : Bytes) :
    nextCode p p.esc (p.code2 :: t) = (.pairEsc, t) := by
  simp [nextCode, distinct.symm]

theorem nextCode_pairIll {t : Bytes} (no1 : t.head? ≠ some p.code1) (no2 : t.head? ≠ some p.code2) :
    nextCode p p.esc t = (.pairIll, t) := by
  cases t with
  | nil => simp [nextCode]
  | cons c t => simp_all [nextCode]

/-- All that the scan can read from `b :: t`: a code and the bytes after it. -/
inductive HeadCode (p : Params) : Byte → Bytes → Code → Bytes → Prop where
  | lit {b : Byte} (literal : b ≠ p.esc) (t : Bytes) : HeadCode p b t (.lit b) t
  | pairDelim (t : Bytes) : HeadCode p p.esc (p.code1 :: t) .pairDelim t
  | pairEsc (distinct : p.code1 ≠ p.code2) (t : Bytes) : HeadCode p p.esc (p.code2 :: t) .pairEsc t
  | pairIll {t : Bytes} (no1 : t.head? ≠ some p.code1) (no2 : t.head? ≠ some p.code2) :
      HeadCode p p.esc t .pairIll t

theorem nextCode_headCode (b : Byte) (t : Bytes) : HeadCode p b t (nextCode p b t).1 (nextCode p b t).2 := by
  by_cases marker : b = p.esc
  · subst marker
    by_cases is1 : t.head? = some p.code1
    · obtain ⟨t, rfl⟩ := List.head?_eq_some_iff.mp is1
      rw [nextCode_pairDelim]
      exact .pairDelim t
    · by_cases is2 : t.head? = some p.code2
      · have distinct : p.code1 ≠ p.code2 := fun same => is1 (same ▸ is2)
        obtain ⟨t, rfl⟩ := List.head?_eq_some_iff.mp is2
        rw [nextCode_pairEsc distinct]
        exact .pairEsc distinct t
      · rw [nextCode_pairIll is1 is2]
        exact .pairIll is1 is2
  · rw [nextCode_lit marker]
    exact .lit marker t

theorem HeadCode.escaped_append {b : Byte} {t rest : Bytes} {c : Code} (head : HeadCode p b t c rest) :
    c.escaped p ++ rest = b :: t := by
  cases head <;> rfl

theorem HeadCode.codes_eq {b : Byte} {t rest : Bytes} {c : Code} (head : HeadCode p b t c rest) :
    codes p (b :: t) = c :: codes p rest := by
  cases head with
  | lit literal => cases t <;> simp [codes, literal]
  | pairDelim => simp [codes]
  | pairEsc distinct => simp [codes, distinct.symm]
  | pairIll no1 no2 => cases t <;> simp_all [codes]

theorem HeadCode.unescape_eq {b : Byte} {t rest : Bytes} {c : Code} (head : HeadCode p b t c rest) :
    unescape p (b :: t) = c.plain p ++ unescape p rest := by
  cases head with
  | lit literal => exact unescape_lit p b literal t
  | pairDelim => exact unescape_pairDelim p rest
  | pairEsc distinct => exact unescape_pairEsc p distinct rest
  | pairIll no1 no2 =>
    cases t with
    | nil => rfl
    | cons d t => exact unescape_ill p d (by simpa using no1) (by simpa using no2) t

theorem HeadCode.rest_length_le {b : Byte} {t rest : Bytes} {c : Code} (head : HeadCode p b t c rest) :
    rest.length ≤ t.length := by
  cases head <;> simp

end Head

/-! ### Cutting a sequence into codes -/

/-- The equation of `nextCode` by which the cut goes on from the bytes the head code leaves (R65). -/
theorem codes_cons (p : Params) (b : Byte) (t : Bytes) :
    codes p (b :: t) = (nextCode p b t).1 :: codes p (nextCode p b t).2 :=
  (nextCode_headCode b t).codes_eq

/-- Induction along the codes of a sequence: from the bytes that the code at the head leaves to the whole. -/
theorem codewise_induction (p : Params) {motive : Bytes → Prop} (nil : motive [])
    (code : ∀ b t, motive (nextCode p b t).2 → motive (b :: t)) : ∀ t, motive t
  | [] => nil
  | b :: t => code b t (codewise_induction p nil code (nextCode p b t).2)
termination_by t => t.length
decreasing_by exact Nat.lt_succ_of_le (nextCode_headCode b t).rest_length_le

theorem flatMap_escaped_codes (p : Params) (t : Bytes) : (codes p t).flatMap (Code.escaped p) = t := by
  induction t using codewise_induction p with
  | nil => rfl
  | code b t ih => rw [codes_cons, List.flatMap_cons, ih, (nextCode_headCode b t).escaped_append]

theorem flatMap_plain_codes (p : Params) (t : Bytes) : (codes p t).flatMap (Code.plain p) = unescape p t := by
  induction t using codewise_induction p with
  | nil => rfl
  | code b t ih => rw [codes_cons, List.flatMap_cons, ih, (nextCode_headCode b t).unescape_eq]

/-- Settles O12: the two joins by induction along the codes, the head by the equations of `nextCode`. -/
theorem codesPartitionTheEscapedSequence : Obligations.CodesPartitionTheEscapedSequence := by
  intro p legal
  refine ⟨flatMap_escaped_codes p, flatMap_plain_codes p, codes_cons p, fun b t => ⟨_, rfl, ?_, ?_, ?_, ?_⟩⟩
  · exact fun literal => congrArg Prod.fst (nextCode_lit literal t)
  · rintro rfl is1
    obtain ⟨t, rfl⟩ := List.head?_eq_some_iff.mp is1
    rw [nextCode_pairDelim]
  · rintro rfl is2
    obtain ⟨t, rfl⟩ := List.head?_eq_some_iff.mp is2
    rw [nextCode_pairEsc (Params.legal_p2 legal)]
  · rintro rfl no1 no2
    exact nextCode_pairIll no1 no2

/-! ### Running the codes -/

/-- A code as an instruction hands over its plain bytes and touches nothing else (R64, R66). -/
theorem exec_codeInstr (c : Code) (s : State) : exec c.instr s = .next (s.hand (.bytes (c.plain s.params))) := by
  cases c <;> rfl

/-- Settles O43, by `exec_codeInstr` for each code. -/
theorem escapedCodesReturnTheirPlainBytes : Obligations.EscapedCodesReturnTheirPlainBytes := fun s =>
  ⟨exec_codeInstr .pairDelim s, exec_codeInstr .pairEsc s, fun v => exec_codeInstr (.lit v) s, exec_codeInstr .pairIll s⟩

theorem fetch_of_decode {s : State} {k : Packet} {ks : List Packet} {i : Instr} {more : Option Packet}
    (legal : s.params.legal = true) (presented : s.pending = k :: ks) (decoded : decode s.params k = .ok (i, more)) :
    s.fetch = .ok (i, { s with pending := more.toList ++ ks }) := by
  simp only [State.fetch, if_pos legal, presented, decoded]

theorem step_of_decode {s : State} {k : Packet} {ks : List Packet} {i : Instr} {more : Option Packet}
    (legal : s.params.legal = true) (presented : s.pending = k :: ks) (decoded : decode s.params k = .ok (i, more)) :
    step s = exec i { s with pending := more.toList ++ ks } := by
  simp only [step, fetch_of_decode legal presented decoded]

theorem run_succ_of_step {M : Host.Core} {s t : M.State} (h : M.step s = .next t) (k : Nat) :
    M.run (k + 1) s = M.run k t := by
  rw [Host.Core.run, h]

/-- One step takes one code off an escaped sequence and hands over its plain bytes. -/
theorem step_escaped {s : State} {b : Byte} {t : Bytes} {ks : List Packet} (legal : s.params.legal = true)
    (presented : s.pending = .escaped b t :: ks) :
    step s = .next { s with
      pending := (leftover (nextCode s.params b t).2).toList ++ ks,
      results := s.results ++ [.bytes ((nextCode s.params b t).1.plain s.params)] } :=
  (step_of_decode legal presented rfl).trans (exec_codeInstr _ _)

/-- Stepping through a sequence, empty or not, takes all of it off the host's list and hands over each code's plain bytes. -/
theorem run_codes (s : State) (legal : s.params.legal = true) (ks : List Packet) (t : Bytes) (before : List Result) :
    Sys2Proof.core.run (codes s.params t).length { s with pending := (leftover t).toList ++ ks, results := before } =
      .next { s with
        pending := ks, results := before ++ (codes s.params t).map fun c => .bytes (c.plain s.params) } := by
  induction t using codewise_induction s.params generalizing before with
  | nil => simp [codes, leftover, Host.Core.run]
  | code b t ih =>
    have stepped := step_escaped (s := { s with pending := .escaped b t :: ks, results := before }) legal rfl
    rw [codes_cons, List.length_cons, List.map_cons, List.append_cons]
    exact (run_succ_of_step (M := Sys2Proof.core) stepped _).trans (ih _)

/-- Settles O31: the run by `run_codes`, the join by `flatMap_plain_codes`. -/
theorem escapedSequenceRunsAsUnescape : Obligations.EscapedSequenceRunsAsUnescape := by
  intro s b rest ks legal
  refine ⟨_, rfl, flatMap_plain_codes s.params (b :: rest), ?_⟩
  rw [List.length_map, List.map_map]
  exact run_codes s legal ks (b :: rest) s.results

end Sys2Proof.Machine
end

section
/-! The encodings of the operations (R70), of the byte categories (R62) and of FEED's rows (R63, R103). -/

namespace Sys2Proof.Machine

theorem decode_of_encode {i : Instr} {p : Params} {k : Packet} (roundTrip : Laws.RoundTrip.Statement i)
    (legal : p.legal = true) (wellFormed : i.wellFormed p = true) (encoded : encode p i = some k) :
    decode p k = .ok (i, none) := by
  obtain ⟨k', encoded', decoded⟩ := roundTrip p legal wellFormed
  obtain rfl : k' = k := Option.some.inj (encoded'.symm.trans encoded)
  exact decoded

/-! ### Operation codes and bare words -/

/-- Settles O8: the eight codes one by one, and the decoder is total on OP3 packets (R71). -/
theorem operationSelectCodes : Obligations.OperationSelectCodes := fun _ _ _ =>
  ⟨rfl, rfl, rfl, rfl, rfl, rfl, rfl, rfl, fun _ => ⟨_, rfl⟩⟩

/-- A bare word that stands for the packet of an instruction decodes to it (log entry 14). -/
theorem decodeTableWord_of_encode {i : Instr} {nbits w : Nat} {k : Packet} (roundTrip : Laws.RoundTrip.Statement i)
    (wellFormed : i.wellFormed Params.standard = true) (packet : tablePacket nbits w = some k)
    (encoded : encode Params.standard i = some k) : decodeTableWord nbits w = some i := by
  simp only [decodeTableWord, packet, decode_of_encode roundTrip Params.standard_legal wellFormed encoded]

/-- Settles O9: each word is the packet of its row, which decodes to the row (`Laws.RoundTrip`). -/
theorem tableWordsDecodeToTheirRows : Obligations.TableWordsDecodeToTheirRows :=
  ⟨decodeTableWord_of_encode Laws.RoundTrip.idle rfl rfl rfl,
    decodeTableWord_of_encode Laws.RoundTrip.arst rfl rfl rfl,
    decodeTableWord_of_encode (Laws.RoundTrip.checksum []) rfl rfl rfl,
    decodeTableWord_of_encode (Laws.RoundTrip.frame []) rfl rfl rfl,
    decodeTableWord_of_encode Laws.RoundTrip.symDelim rfl rfl rfl,
    decodeTableWord_of_encode Laws.RoundTrip.symEsc rfl rfl rfl,
    decodeTableWord_of_encode Laws.RoundTrip.pairDelim rfl rfl rfl,
    decodeTableWord_of_encode Laws.RoundTrip.pairEsc rfl rfl rfl⟩

/-! ### Byte categories -/

theorem classify_eq_other_iff (p : Params) (b : Byte) : classify p b = .other ↔ b ≠ delim ∧ b ≠ p.esc := by
  unfold classify
  split
  · simp [*]
  · split <;> simp [*]

/-- All bytes but the two reserved ones are OTHER (R62). -/
theorem card_filter_classify_other {p : Params} (p1 : p.esc ≠ delim) :
    (Finset.univ.filter fun b : Byte => classify p b = .other).card = 254 := by
  have reserved : (Finset.univ.filter fun b : Byte => classify p b = .other) = {delim, p.esc}ᶜ := by
    ext b
    simp [classify_eq_other_iff]
  rw [reserved, Finset.card_compl, Finset.card_pair p1.symm, ← FinEnum.card_eq_fintypeCard, FinEnum.card_bitVec]
  rfl

/-- Settles O10: each category by its instruction's round trip, the count by the complement of the two reserved bytes. -/
theorem byteCategoriesPartitionTheBytes : Obligations.ByteCategoriesPartitionTheBytes := by
  intro p legal
  refine ⟨decode_of_encode Laws.RoundTrip.symDelim legal rfl rfl, decode_of_encode Laws.RoundTrip.symEsc legal rfl rfl,
    fun b noDelim noEsc => ?_, card_filter_classify_other (Params.legal_p1 legal)⟩
  have wellFormed : (Instr.symOther b).wellFormed p = true := by simpa [Instr.wellFormed] using ⟨noDelim, noEsc⟩
  exact decode_of_encode (Laws.RoundTrip.symOther b) legal wellFormed rfl

/-- Settles O24: each arrival is `feedAndHand` of its byte, as FEED is. -/
theorem symbolArrivalIsFeed : Obligations.SymbolArrivalIsFeed := fun _ =>
  ⟨⟨_, rfl, rfl⟩, ⟨_, rfl, rfl⟩, fun _ => ⟨_, rfl, rfl⟩⟩

/-! ### The STOP test before the START test -/

/-- IN-FRAME selects the START row by a byte that is START and not STOP (R103). -/
theorem selectRow_infr_eq_infrStart_iff (start stop esc b : Byte) :
    selectRow start stop esc .infr b = some .infrStart ↔ b = start ∧ b ≠ stop := by
  simp only [selectRow, Option.some.injEq]
  by_cases isStop : b = stop
  · simp [isStop]
  · by_cases isStart : b = start
    · subst isStart
      simp [isStop]
    · rw [if_neg isStop, if_neg isStart]
      split <;> simp [isStart]

/-- With one value for both delimiters no state and byte select the START row (R63). -/
theorem selectRow_ne_infrStart (d esc b : Byte) (st : AsmState) : selectRow d d esc st b ≠ some .infrStart := by
  cases st with
  | infr => simp [selectRow_infr_eq_infrStart_iff]
  | scan => by_cases isStart : b = d <;> simp [selectRow, isStart]
  | escp | done => simp [selectRow]

/-- Settles O11, from the selection of rows; the row by itself is then never selected (`performIfSelected`, log entry 9). -/
theorem stopTestComesBeforeStartTest : Obligations.StopTestComesBeforeStartTest :=
  ⟨selectRow_ne_infrStart, selectRow_infr_eq_infrStart_iff, fun _ _ _ => by simp [selectRow],
    fun s => performIfSelected_of_not_selected _ _ s (selectRow_ne_infrStart delim s.params.esc startByte s.state)⟩

end Sys2Proof.Machine
end

section
/-! FEED as an instruction, row by row (R101 to R108), with R107's append as the rule writes it. -/

namespace Sys2Proof.Machine

/-- The model's append is R107's: the room is the rule's test of the capacity. -/
theorem append_eq_appended (b : Byte) (s : State) : s.append b = Spec.appended b s := by
  unfold State.append State.hasRoom Spec.appended
  cases s.params.bufCap with
  | none => rfl
  | some n =>
    by_cases room : s.buf.length < n <;>
      simp [room, State.memAppend, State.raiseBufferOverflow, State.setOverflow]

theorem goto_of_state {v : AsmState} {s : State} (h : s.state = v) : s.goto v = s := by
  rw [State.goto, ← h]

theorem exec_feed_of_eq {b : Byte} {s t : State} {r : Option Bytes} (h : feed b s = (t, r)) :
    exec (.feed b) s = .next (t.hand (.frame r)) := by
  rw [exec_feed, h]

/-- Settles O14, by the two rows of `feed_of_scan`. -/
theorem feedFromScan : Obligations.FeedFromScan := by
  intro s b scan
  by_cases opens : b = 0x7E
  · rw [if_pos opens, exec_feed, feed_of_scan b s scan, if_pos (show b = delim from opens)]
    rfl
  · rw [if_neg opens, exec_feed, feed_of_scan b s scan, if_neg (show b ≠ delim from opens)]
    rfl

/-- Settles O15, by `feed_delim_of_infr`. -/
theorem feedOfStopClosesTheFrame : Obligations.FeedOfStopClosesTheFrame := fun s infr =>
  exec_feed_of_eq (feed_delim_of_infr s infr)

/-- Settles O16: the marker is no delimiter (P1), so it is appended (`feed_of_infr`). -/
theorem feedOfMarkerArmsEscapePending : Obligations.FeedOfMarkerArmsEscapePending := by
  intro s legal infr
  rw [exec_feed, feed_of_infr s.params.esc s infr (Params.legal_p1 legal), if_pos rfl, append_eq_appended]
  rfl

/-- Settles O17, by `feed_of_infr`; `STATE` is `INFR` already. -/
theorem feedOfOtherByteAppends : Obligations.FeedOfOtherByteAppends := by
  intro s b infr noDelim noEsc
  have stays : (s.append b).state = .infr := (State.append_state b s).trans infr
  rw [exec_feed, feed_of_infr b s infr noDelim, if_neg noEsc, goto_of_state stays, append_eq_appended]
  rfl

/-- Settles O18, by `feed_of_escp`. -/
theorem feedInEscapePendingAppendsAnyByte : Obligations.FeedInEscapePendingAppendsAnyByte := by
  intro s b escp
  rw [exec_feed, feed_of_escp b s escp, append_eq_appended]
  rfl

/-! ### What FEED returns -/

/-- Outside FRAME-COMPLETE only the delimiter row of `INFR` emits (R102, R108). -/
theorem feed_returns {s : State} (resting : s.state ≠ .done) (b : Byte) :
    (feed b s).2 = if s.state = .infr ∧ b = delim then s.emission else none := by
  cases hs : s.state with
  | scan => rw [feed_of_scan b s hs]; by_cases hb : b = delim <;> simp [hb]
  | infr =>
    by_cases hb : b = delim
    · subst hb; simp [feed_delim_of_infr s hs]
    · simp [feed_of_infr b s hs hb, hb]
  | escp => simp [feed_of_escp b s hs]
  | done => exact absurd hs resting

theorem emission_eq_some_iff (s : State) (f : Bytes) :
    s.emission = some f ↔ s.buf ≠ [] ∧ s.trunc = false ∧ f = s.buf := by
  rw [State.emission, Option.ite_none_right_eq_some, Option.some.injEq, and_assoc, eq_comm (a := f)]

theorem feed_returns_some_iff {s : State} (resting : s.state ≠ .done) (b : Byte) (f : Bytes) :
    (feed b s).2 = some f ↔ s.state = .infr ∧ b = delim ∧ s.buf ≠ [] ∧ s.trunc = false ∧ f = s.buf := by
  rw [feed_returns resting, Option.ite_none_right_eq_some, emission_eq_some_iff, and_assoc]

theorem fits_iff {p : Params} {f : Bytes} : Spec.fits p f = true ↔ ∀ n, p.bufCap = some n → f.length ≤ n := by
  unfold Spec.fits
  cases p.bufCap <;> simp

/-- Settles O20, by `feed_returns_some_iff`; what is returned is `BUF`, which fits (R31 (I-d)). -/
theorem feedReturnsAFrameExactlyAtAClosingDelimiter : Obligations.FeedReturnsAFrameExactlyAtAClosingDelimiter := by
  intro s b inv
  obtain ⟨_, _, _, _, results⟩ := feed_leaves b s
  refine ⟨_, _, exec_feed b s, congrArg (· ++ _) results, feed_returns_some_iff inv.resting b, fun f returned => ?_⟩
  obtain ⟨_, _, nonempty, _, rfl⟩ := (feed_returns_some_iff inv.resting b f).mp returned
  exact ⟨nonempty, fits_iff.mpr inv.bounded⟩

end Sys2Proof.Machine
end

section
/-! The rows of FEED's table as instructions (R100, log entry 9): when each is selected, and that it is then FEED. -/

namespace Sys2Proof.Machine

/-- The `STATE` and the bytes at which this hardware's table has each row (R101 to R106). -/
def RowSelected (s : State) (b : Byte) : Row → Prop
  | .scanStart => s.state = .scan ∧ b = delim
  | .scanElse => s.state = .scan ∧ b ≠ delim
  | .infrStop => s.state = .infr ∧ b = delim
  | .infrStart => False
  | .infrEsc => s.state = .infr ∧ b ≠ delim ∧ b = s.params.esc
  | .infrOther => s.state = .infr ∧ b ≠ delim ∧ b ≠ s.params.esc
  | .escpAny => s.state = .escp

theorem rowOf_eq_some_iff {row : Row} {b : Byte} {s : State} : rowOf s b = some row ↔ RowSelected s b row := by
  unfold rowOf
  cases hs : s.state with
  | scan => by_cases hb : b = delim <;> cases row <;> simp [selectRow, startByte_eq, RowSelected, hs, hb]
  | infr =>
    by_cases hb : b = delim
    · cases row <;> simp [selectRow, stopByte_eq, RowSelected, hs, hb]
    · by_cases he : b = s.params.esc
      · cases row <;> simp [selectRow, startByte_eq, stopByte_eq, RowSelected, hs, hb, ← he]
      · cases row <;> simp [selectRow, startByte_eq, stopByte_eq, RowSelected, hs, hb, he]
  | escp | done => cases row <;> simp [selectRow, RowSelected, hs]

/-- The table has a row for every byte in every state that rests (R100). -/
theorem exists_rowOf {s : State} (resting : s.state ≠ .done) (b : Byte) : ∃ row, rowOf s b = some row := by
  unfold rowOf
  cases hs : s.state with
  | scan | infr | escp => exact ⟨_, rfl⟩
  | done => exact absurd hs resting

/-- A selected row as an instruction presents the byte that selected it. -/
theorem exec_rowInstr {row : Row} {b : Byte} {s : State} (selected : RowSelected s b row) :
    exec (row.instr b) s = performIfSelected row b s := by
  cases row with
  | scanStart | infrStop => obtain ⟨_, rfl⟩ := selected; rfl
  | infrEsc => obtain ⟨_, _, rfl⟩ := selected; rfl
  | infrStart => exact selected.elim
  | scanElse | infrOther | escpAny => rfl

/-- A row that is selected, presented by itself, does what FEED does (R100). -/
theorem exec_rowInstr_eq_feed {row : Row} {b : Byte} {s : State} (selected : RowSelected s b row) :
    exec (row.instr b) s = exec (.feed b) s := by
  have chosen : rowOf s b = some row := rowOf_eq_some_iff.mpr selected
  rw [exec_rowInstr selected, performIfSelected_of_selected row b s chosen, exec_feed, feed_of_selected chosen]
  rfl

theorem performIfSelected_eq_self {row : Row} {b : Byte} {s : State} (notSelected : ¬RowSelected s b row) :
    performIfSelected row b s = .next s :=
  performIfSelected_of_not_selected row b s (mt rowOf_eq_some_iff.mp notSelected)

/-- Settles O21: the table has a row for the byte (`exists_rowOf`), and that row is FEED (`exec_rowInstr_eq_feed`). -/
theorem feedPerformsTheSelectedRow : Obligations.FeedPerformsTheSelectedRow := by
  intro s b resting
  obtain ⟨row, selected⟩ := exists_rowOf resting b
  exact ⟨row, _, selected, exec_feed b s, exec_rowInstr_eq_feed (rowOf_eq_some_iff.mp selected)⟩

/-- Settles O22: a selected row is FEED of its byte (O14, O15), any other does nothing. -/
theorem delimiterRowsAsInstructions : Obligations.DelimiterRowsAsInstructions := by
  intro s
  refine ⟨fun scan => ?_, fun other => performIfSelected_eq_self (mt And.left other), fun b scan noDelim => ?_,
    fun b => performIfSelected_eq_self (row := .scanElse), fun infr => ?_,
    fun other => performIfSelected_eq_self (mt And.left other), rfl, performIfSelected_eq_self (row := .infrStart) id⟩
  · exact (exec_rowInstr_eq_feed (row := .scanStart) ⟨scan, rfl⟩).trans (feedFromScan s delim scan)
  · have discarded := feedFromScan s b scan
    rw [if_neg noDelim] at discarded
    exact (exec_rowInstr_eq_feed (row := .scanElse) ⟨scan, noDelim⟩).trans discarded
  · exact (exec_rowInstr_eq_feed (row := .infrStop) ⟨infr, rfl⟩).trans (feedOfStopClosesTheFrame s infr)

/-- Settles O23: a selected row is FEED of its byte (O16, O17, O18), any other does nothing. -/
theorem appendingRowsAsInstructions : Obligations.AppendingRowsAsInstructions := by
  intro s legal
  refine ⟨fun infr => ?_, fun other => performIfSelected_eq_self (mt And.left other), fun b infr noDelim noEsc => ?_,
    fun b => performIfSelected_eq_self (row := .infrOther), fun b escp => ?_,
    fun b => performIfSelected_eq_self (row := .escpAny)⟩
  · exact (exec_rowInstr_eq_feed (row := .infrEsc) ⟨infr, Params.legal_p1 legal, rfl⟩).trans
      (feedOfMarkerArmsEscapePending s legal infr)
  · exact (exec_rowInstr_eq_feed (row := .infrOther) ⟨infr, noDelim, noEsc⟩).trans
      (feedOfOtherByteAppends s b infr noDelim noEsc)
  · exact (exec_rowInstr_eq_feed (row := .escpAny) escp).trans (feedInEscapePendingAppendsAnyByte s b escp)

end Sys2Proof.Machine
end

section
/-! ARST (R110), IDLE (R118), and a whole stream as ASSEMBLE_ALL (R111) and as queued FEEDs (R73). -/

namespace Sys2Proof.Machine

/-- Settles O27: the reset state as it is defined, and OVF is sticky under everything else (`exec_ovf_sticky`). -/
theorem arstResetsTheInstance : Obligations.ArstResetsTheInstance := fun _ =>
  ⟨rfl, fun _ => rfl, fun _ _ notArst completes set => exec_ovf_sticky completes notArst set⟩

/-- Settles O28: the meaning of IDLE is the state it was given. -/
theorem idleChangesNothing : Obligations.IdleChangesNothing := fun _ => rfl

theorem exec_assembleAll (w : Bytes) (s : State) :
    exec (.assembleAll w) s = .next ((assembleAll w s).1.hand (.frames (assembleAll w s).2)) := rfl

/-- Settles O29: R111's loop is the recursion of `assembleAll`, and a cut is `assembleAll_append`. -/
theorem assembleAllFeedsInOrderAndChunkingDoesNotMatter :
    Obligations.AssembleAllFeedsInOrderAndChunkingDoesNotMatter := by
  refine ⟨fun s => rfl, fun s b w => ⟨_, _, _, _, exec_feed b s, exec_assembleAll w _, exec_assembleAll (b :: w) s⟩,
    fun s w1 w2 => ⟨_, _, _, _, exec_assembleAll w1 s, exec_assembleAll w2 _, ?_⟩⟩
  rw [exec_assembleAll, assembleAll_append]
  rfl

/-! ### Queued FEEDs -/

/-- What the FEEDs of a stream hand over, one result each. -/
def feedResults (w : Bytes) (s : State) : List Result := (feedTrace w s).map fun x => .frame x.2

theorem feedResults_cons (b : Byte) (w : Bytes) (s : State) :
    feedResults (b :: w) s = .frame (feed b s).2 :: feedResults w (feed b s).1 := rfl

theorem length_feedResults (w : Bytes) (s : State) : (feedResults w s).length = w.length := by
  induction w generalizing s with
  | nil => rfl
  | cons b w ih => rw [feedResults_cons, List.length_cons, List.length_cons, ih]

theorem framesReturned_frame_cons (r : Option Bytes) (rs : List Result) :
    framesReturned (.frame r :: rs) = r.toList ++ framesReturned rs := by
  cases r <;> rfl

/-- The frames among the results of the FEEDs are those ASSEMBLE_ALL collects (R111). -/
theorem framesReturned_feedResults (w : Bytes) (s : State) : framesReturned (feedResults w s) = (assembleAll w s).2 := by
  induction w generalizing s with
  | nil => rfl
  | cons b w ih => rw [feedResults_cons, framesReturned_frame_cons, ih]; rfl

/-- The packets of the FEEDs of a stream (R70). -/
def feedPackets (w : Bytes) : List Packet := w.map fun b => .op3 0b001 b []

/-- A step of a presented FEED takes its packet and hands over what FEED returns; the rest of the host's side is as before. -/
theorem step_feedPacket {s : State} (legal : s.params.legal = true) (h : HostSide) (b : Byte) (ks : List Packet) :
    step (s.withHostSide { h with pending := .op3 0b001 b [] :: ks }) =
      .next ((feed b s).1.withHostSide { h with pending := ks, results := h.results ++ [.frame (feed b s).2] }) := by
  have executes : step (s.withHostSide { h with pending := .op3 0b001 b [] :: ks }) =
      exec (.feed b) (s.withHostSide { h with pending := ks }) :=
    step_of_decode (s := s.withHostSide { h with pending := .op3 0b001 b [] :: ks }) legal rfl rfl
  rw [executes, exec_feed, feed_withHostSide]
  rfl

/-- Stepping through the queued FEEDs of a stream leaves the block as ASSEMBLE_ALL leaves it (R73). -/
theorem run_feedPackets {s : State} (legal : s.params.legal = true) (h : HostSide) (w : Bytes) (ks : List Packet) :
    Sys2Proof.core.run w.length (s.withHostSide { h with pending := feedPackets w ++ ks }) =
      .next ((assembleAll w s).1.withHostSide { h with pending := ks, results := h.results ++ feedResults w s }) := by
  induction w generalizing s h with
  | nil => simp [feedPackets, feedResults, feedTrace, assembleAll, Host.Core.run]
  | cons b w ih =>
    have legal' : (feed b s).1.params.legal = true := by rw [(feed_leaves b s).1, legal]
    have rest := ih legal' { h with results := h.results ++ [.frame (feed b s).2] }
    rw [List.append_assoc] at rest
    exact (run_succ_of_step (M := Sys2Proof.core) (step_feedPacket legal h b (feedPackets w ++ ks)) w.length).trans rest

/-- Settles O30, by `run_feedPackets`: the queued FEEDs are a change of the host's side alone. -/
theorem queuedFeedsRunAsAssembleAll : Obligations.QueuedFeedsRunAsAssembleAll := by
  intro s w ks legal
  obtain ⟨params, _, _, _, results⟩ := assembleAll_leaves w s
  have ran := run_feedPackets legal ⟨s.params.verifyChecksum, s.params.validateLength, [], s.results⟩ w ks
  refine ⟨_, _, feedResults w s, (assembleAll w s).2, ran, exec_assembleAll w s, rfl, ?_, rfl, rfl,
    length_feedResults w s, congrArg (· ++ _) results, framesReturned_feedResults w s⟩
  rw [State.withHostSide, params]

end Sys2Proof.Machine
end

section
/-! FEED inside a frame that has lost nothing, byte by byte, and the document's resynchronisation stream (R113, R114). -/

namespace Sys2Proof.Machine

/-- `s` with `STATE` and `BUF` as given and no byte of the frame lost. -/
def State.holding (v : AsmState) (x : Bytes) (s : State) : State := { s with state := v, buf := x, trunc := false }

section Holding
variable {s : State} {b : Byte} {v : AsmState} {x : Bytes}

/-- While the longer buffer fits, the append stores its byte (R107). -/
theorem append_holding (room : Spec.fits s.params (x ++ [b]) = true) :
    (s.holding v x).append b = s.holding v (x ++ [b]) := by
  have hasRoom : (s.holding v x).hasRoom = true := by
    cases cap : s.params.bufCap with
    | none => exact State.hasRoom_of_unbounded (s.holding v x) cap
    | some n =>
      have longer : x.length < n := by simpa using fits_iff.mp room n cap
      exact (State.hasRoom_iff_of_bounded (s.holding v x) n cap).mpr longer
  rw [State.append, if_pos hasRoom]
  rfl

theorem feed_delim_scan_holding : feed delim (s.holding .scan x) = (s.holding .infr [], none) :=
  (feed_of_scan delim _ rfl).trans (if_pos rfl)

theorem feed_scan_holding (noDelim : b ≠ delim) : feed b (s.holding .scan x) = (s.holding .scan x, none) :=
  (feed_of_scan b _ rfl).trans (if_neg noDelim)

theorem feed_delim_infr_holding (nonempty : x ≠ []) :
    feed delim (s.holding .infr x) = (s.holding .scan [], some x) :=
  (feed_delim_of_infr _ rfl).trans (Prod.ext rfl (if_pos ⟨nonempty, rfl⟩))

theorem feed_infr_holding (room : Spec.fits s.params (x ++ [b]) = true) (noDelim : b ≠ delim) :
    feed b (s.holding .infr x) = (s.holding (if b = s.params.esc then .escp else .infr) (x ++ [b]), none) := by
  rw [feed_of_infr b _ rfl noDelim, append_holding room]
  rfl

theorem feed_escp_holding (room : Spec.fits s.params (x ++ [b]) = true) :
    feed b (s.holding .escp x) = (s.holding .infr (x ++ [b]), none) := by
  rw [feed_of_escp b _ rfl, append_holding room]
  rfl

end Holding

/-- While the longer buffer fits, a byte that is neither delimiter nor marker is appended in either state inside a frame. -/
theorem feed_other_holding {s : State} {b : Byte} {v : AsmState} {x : Bytes} (inFrame : v = .infr ∨ v = .escp)
    (room : Spec.fits s.params (x ++ [b]) = true) (noDelim : b ≠ delim) (noEsc : b ≠ s.params.esc) :
    feed b (s.holding v x) = (s.holding .infr (x ++ [b]), none) := by
  rcases inFrame with rfl | rfl
  · rw [feed_infr_holding room noDelim, if_neg noEsc]
  · exact feed_escp_holding room

/-- While the longer buffer fits, a marker in `INFR` is appended and arms ESCAPE-PENDING. -/
theorem feed_esc_holding {s : State} {x : Bytes} (legal : s.params.legal = true)
    (room : Spec.fits s.params (x ++ [s.params.esc]) = true) :
    feed s.params.esc (s.holding .infr x) = (s.holding .escp (x ++ [s.params.esc]), none) := by
  rw [feed_infr_holding room (Params.legal_p1 legal), if_pos rfl]

/-! ### A stream, one FEED after another -/

section Stream
variable {s t u : State} {b : Byte} {w : Bytes} {fs : List Bytes}

theorem assembleAll_cons_none (fed : feed b s = (t, none)) (rest : assembleAll w t = (u, fs)) :
    assembleAll (b :: w) s = (u, fs) := by
  simp [assembleAll, fed, rest]

theorem assembleAll_cons_some {f : Bytes} (fed : feed b s = (t, some f)) (rest : assembleAll w t = (u, fs)) :
    assembleAll (b :: w) s = (u, f :: fs) := by
  simp [assembleAll, fed, rest]

theorem exec_assembleAll_of_eq (ran : assembleAll w s = (t, fs)) :
    exec (.assembleAll w) s = .next (t.hand (.frames fs)) := by
  rw [exec_assembleAll, ran]

end Stream

/-- A frame no longer than a length that every finite capacity has fits. -/
theorem fits_of_length_le {p : Params} {m : Nat} (capacity : ∀ n, p.bufCap = some n → m ≤ n) {f : Bytes}
    (short : f.length ≤ m) : Spec.fits p f = true :=
  fits_iff.mpr fun n cap => short.trans (capacity n cap)

/-! ### The resynchronisation stream (R114) -/

/-- The stream up to its third delimiter when `b` is no marker: the frame `[a, b]` is closed, `c` is discarded and a new frame
is opened. -/
theorem assembleAll_closed_frame {s u : State} {a b c : Byte} {w : Bytes} {fs : List Bytes} (scan : s.state = .scan)
    (capacity : ∀ n, s.params.bufCap = some n → 2 ≤ n) (ha : a ≠ delim) (hb : b ≠ delim) (hc : c ≠ delim)
    (b_ne_esc : b ≠ s.params.esc) (rest : assembleAll w (s.holding .infr []) = (u, fs)) :
    assembleAll (delim :: a :: b :: delim :: c :: delim :: w) s = (u, [a, b] :: fs) := by
  refine assembleAll_cons_none (t := s.holding .infr []) ((feed_of_scan delim s scan).trans (if_pos rfl)) ?_
  refine assembleAll_cons_none (feed_infr_holding (fits_of_length_le capacity (by simp)) ha) ?_
  refine assembleAll_cons_none
    (feed_other_holding (ite_eq_or_eq _ _ _).symm (fits_of_length_le capacity (by simp)) hb b_ne_esc) ?_
  refine assembleAll_cons_some (feed_delim_infr_holding (by simp)) ?_
  refine assembleAll_cons_none (feed_scan_holding hc) ?_
  exact assembleAll_cons_none feed_delim_scan_holding rest

/-- Settles O32, FEED by FEED: when `b` is no marker the first frame closes (`assembleAll_closed_frame`) and `d` decides about
the second; when `b` is the marker it swallows the delimiter after it. -/
theorem resynchronisationStreamYieldsTwoFrames : Obligations.ResynchronisationStreamYieldsTwoFrames := by
  intro s a b c d legal scan ha hb hc hd
  refine ⟨fun capacity b_ne_esc d_ne_esc => ?_, fun capacity b_ne_esc d_eq_esc => ?_,
    fun capacity b_eq_esc a_ne_esc c_ne_esc => ?_⟩
  · refine exec_assembleAll_of_eq (t := s.holding .scan [])
      (assembleAll_closed_frame scan capacity ha hb hc b_ne_esc ?_)
    refine assembleAll_cons_none
      (feed_other_holding (.inl rfl) (fits_of_length_le capacity (by simp)) hd d_ne_esc) ?_
    exact assembleAll_cons_some (feed_delim_infr_holding (by simp)) rfl
  · subst d_eq_esc
    refine exec_assembleAll_of_eq (t := s.holding .infr [s.params.esc, delim])
      (assembleAll_closed_frame scan capacity ha hb hc b_ne_esc ?_)
    refine assembleAll_cons_none (feed_esc_holding legal (fits_of_length_le capacity (by simp))) ?_
    exact assembleAll_cons_none (feed_escp_holding (fits_of_length_le capacity (by simp))) rfl
  · subst b_eq_esc
    refine exec_assembleAll_of_eq (t := s.holding .infr []) ?_
    refine assembleAll_cons_none (t := s.holding .infr []) ((feed_of_scan delim s scan).trans (if_pos rfl)) ?_
    refine assembleAll_cons_none
      (feed_other_holding (.inl rfl) (fits_of_length_le capacity (by simp)) ha a_ne_esc) ?_
    refine assembleAll_cons_none (feed_esc_holding legal (fits_of_length_le capacity (by simp))) ?_
    refine assembleAll_cons_none (feed_escp_holding (fits_of_length_le capacity (by simp))) ?_
    refine assembleAll_cons_none
      (feed_other_holding (.inl rfl) (fits_of_length_le capacity (by simp)) hc c_ne_esc) ?_
    refine assembleAll_cons_some (feed_delim_infr_holding (by simp)) ?_
    refine assembleAll_cons_none (feed_scan_holding hd) ?_
    exact assembleAll_cons_none feed_delim_scan_holding rfl

end Sys2Proof.Machine
end

section
/-! A finite buffer beside the unbounded one (R116): a simulation that every FEED keeps. -/

namespace Sys2Proof.Machine

/-- With capacity `n`, `f` follows the unbounded `u`: the two are in one state, and either they hold the
same bytes, which fit, or `f` has lost a byte of the frame because the frame does not fit. -/
structure Follows (n : Nat) (f u : State) : Prop where
  finite : f.params.bufCap = some n
  unbounded : u.params.bufCap = none
  esc : f.params.esc = u.params.esc
  state : f.state = u.state
  resting : u.state ≠ .done
  whole : u.trunc = false
  buffer : f.trunc = false ∧ f.buf = u.buf ∧ u.buf.length ≤ n ∨ f.trunc = true ∧ f.ovf = true ∧ n < u.buf.length

section Follows
variable {n : Nat} {f u : State}

theorem Follows.clear (follows : Follows n f u) {v : AsmState} (resting : v ≠ .done) :
    Follows n (f.clearFrame.goto v) (u.clearFrame.goto v) where
  finite := follows.finite
  unbounded := follows.unbounded
  esc := follows.esc
  state := rfl
  resting := resting
  whole := rfl
  buffer := .inl ⟨rfl, rfl, n.zero_le⟩

/-- The append that finds the finite buffer full makes the frame too long for it (R107). -/
theorem Follows.append (follows : Follows n f u) (b : Byte) {v : AsmState} (resting : v ≠ .done) :
    Follows n ((f.append b).goto v) ((u.append b).goto v) := by
  have stored : u.append b = u.memAppend b := if_pos (u.hasRoom_of_unbounded follows.unbounded)
  have room_iff := f.hasRoom_iff_of_bounded n follows.finite
  rw [stored]
  refine ⟨by simp [follows.finite], by simp [follows.unbounded], by simp [follows.esc], rfl, resting, follows.whole, ?_⟩
  simp only [State.goto_trunc, State.goto_buf, State.goto_ovf, State.memAppend_buf, List.length_append,
    List.length_singleton]
  rcases follows.buffer with ⟨whole, same, fits⟩ | ⟨lost, overflow, long⟩
  · rcases f.append_cases b with ⟨room, e⟩ | ⟨noRoom, e⟩
    · have lt : f.len < n := room_iff.mp room
      rw [State.len, same] at lt
      exact .inl ⟨by simp [e, whole], by simp [e, same], lt⟩
    · have full : ¬f.len < n := fun lt => by simp [room_iff.mpr lt] at noRoom
      rw [State.len, same] at full
      exact .inr ⟨by simp [e], by simp [e], by omega⟩
  · have stillLost : (f.append b).trunc = true ∧ (f.append b).ovf = true := by
      rcases f.append_cases b with ⟨_, e⟩ | ⟨_, e⟩ <;> simp [e, lost, overflow]
    exact .inr ⟨stillLost.1, stillLost.2, by omega⟩

/-- The simulation step. -/
theorem Follows.feed (follows : Follows n f u) (b : Byte) : Follows n (feed b f).1 (feed b u).1 := by
  have same := follows.state
  cases hu : u.state with
  | scan =>
    rw [hu] at same
    rw [feed_of_scan b f same, feed_of_scan b u hu]
    by_cases hb : b = delim
    · rw [if_pos hb, if_pos hb]
      exact follows.clear (by decide)
    · rw [if_neg hb, if_neg hb]
      exact follows
  | infr =>
    rw [hu] at same
    by_cases hb : b = delim
    · rw [hb, feed_delim_of_infr f same, feed_delim_of_infr u hu]
      exact follows.clear (by decide)
    · rw [feed_of_infr b f same hb, feed_of_infr b u hu hb, follows.esc]
      exact follows.append b (by split <;> decide)
  | escp =>
    rw [hu] at same
    rw [feed_of_escp b f same, feed_of_escp b u hu]
    exact follows.append b (by decide)
  | done => exact absurd hu follows.resting

/-- A frame that fits is emitted by both, one that does not by the unbounded side alone (R102). -/
theorem Follows.emission (follows : Follows n f u) :
    f.emission = u.emission.filter fun x => decide (x.length ≤ n) := by
  rcases follows.buffer with ⟨whole, same, fits⟩ | ⟨lost, _, long⟩
  · by_cases empty : u.buf = [] <;> simp [State.emission, whole, same, follows.whole, empty, fits, Option.filter_some]
  · by_cases empty : u.buf = [] <;> simp [State.emission, lost, follows.whole, empty, long, Option.filter_some]

theorem Follows.emission_of_whole (follows : Follows n f u) (noOverflow : f.ovf = false) : f.emission = u.emission := by
  rcases follows.buffer with ⟨whole, same, _⟩ | ⟨_, overflow, _⟩
  · simp [State.emission, whole, same, follows.whole]
  · simp [noOverflow] at overflow

theorem Follows.feed_returns (follows : Follows n f u) (b : Byte) :
    (Machine.feed b f).2 = (Machine.feed b u).2.filter fun x => decide (x.length ≤ n) := by
  rw [Machine.feed_returns (follows.state ▸ follows.resting), Machine.feed_returns follows.resting, follows.state,
    follows.emission]
  split <;> rfl

theorem Follows.feed_returns_of_whole (follows : Follows n f u) (noOverflow : f.ovf = false) (b : Byte) :
    (Machine.feed b f).2 = (Machine.feed b u).2 := by
  rw [Machine.feed_returns (follows.state ▸ follows.resting), Machine.feed_returns follows.resting, follows.state,
    follows.emission_of_whole noOverflow]

theorem Follows.feedTrace (follows : Follows n f u) (w : Bytes) :
    feedTrace w f = (feedTrace w u).map fun x => (x.1, x.2.filter fun f => decide (f.length ≤ n)) := by
  induction w generalizing f u with
  | nil => rfl
  | cons b w ih =>
    simp only [Sys2Proof.feedTrace, List.map_cons, (follows.feed b).state, follows.feed_returns b, ih (follows.feed b)]

end Follows

theorem feed_ovf_sticky (b : Byte) (s : State) (set : s.ovf = true) : (feed b s).1.ovf = true :=
  (feed_effect b s).ovf_sticky set

/-- A stream after which `OVF` is 0 began with `OVF` 0 (R24). -/
theorem ovf_of_assembleAll {w : Bytes} {s : State} (noOverflow : (assembleAll w s).1.ovf = false) : s.ovf = false := by
  by_contra set
  have sticky := assembleAll_preserves (P := fun s => s.ovf = true) feed_ovf_sticky w s (by simpa using set)
  simp [noOverflow] at sticky

/-- A stream that leaves `OVF` at 0 never lost a byte, so the two instances agree at each FEED. -/
theorem Follows.feedTrace_of_whole {n : Nat} {f u : State} (follows : Follows n f u) (w : Bytes)
    (noOverflow : (assembleAll w f).1.ovf = false) : Sys2Proof.feedTrace w f = Sys2Proof.feedTrace w u := by
  induction w generalizing f u with
  | nil => rfl
  | cons b w ih =>
    have whole : f.ovf = false := ovf_of_assembleAll noOverflow
    simp only [Sys2Proof.feedTrace, (follows.feed b).state, follows.feed_returns_of_whole whole b,
      ih (follows.feed b) noOverflow]

/-- Settles O34, by the simulation `Follows` along the stream. -/
theorem statePathDoesNotDependOnCapacity : Obligations.StatePathDoesNotDependOnCapacity := by
  intro s n w fits whole resting unbounded finite
  have follows : Follows n finite unbounded := ⟨rfl, rfl, rfl, rfl, resting, whole, .inl ⟨whole, rfl, fits⟩⟩
  refine ⟨follows.feedTrace w, fun t completes noOverflow => follows.feedTrace_of_whole w ?_⟩
  cases completes
  exact noOverflow

end Sys2Proof.Machine
end

section
/-! The escape codec (41_escape_codec.md): ESCAPE and UNESCAPE as instructions, their round trips, and the well-formed
sequences (R120 to R123, R125, R127, R129 to R131). -/

namespace Sys2Proof.Machine

/-! ### The two instructions -/

theorem exec_escape (x : Bytes) (s : State) : exec (.escape x) s = .next (s.hand (.bytes (escape s.params x))) := rfl

theorem returns_unescape (t : Bytes) (s : State) : Spec.Returns (.unescape t) s (.bytes (unescape s.params t)) :=
  ⟨_, rfl, rfl, rfl, rfl, rfl⟩

/-! ### ESCAPE byte by byte -/

theorem escape_append (p : Params) (x y : Bytes) : escape p (x ++ y) = escape p x ++ escape p y :=
  List.flatMap_append

theorem escape_singleton (p : Params) (b : Byte) : escape p [b] = esc1 p b := List.append_nil _

theorem escape_delim (p : Params) : escape p [delim] = [p.esc, p.code1] := (escape_singleton p delim).trans (esc1_delim p)

/-- Settles O35, by `exec_escape` and `escape_append`. -/
theorem escapeReplacesByteByByte : Obligations.EscapeReplacesByteByByte :=
  ⟨fun s x => exec_escape x s, fun s x y =>
    ⟨_, _, exec_escape x s, exec_escape y s, escape_append s.params x y ▸ exec_escape (x ++ y) s⟩⟩

/-- All that the per-byte map can give (R121). -/
theorem esc1_cases (p : Params) (b : Byte) :
    b = delim ∧ esc1 p b = [p.esc, p.code1] ∨ b ≠ delim ∧ b = p.esc ∧ esc1 p b = [p.esc, p.code2] ∨
      b ≠ delim ∧ b ≠ p.esc ∧ esc1 p b = [b] := by
  by_cases isDelim : b = delim
  · exact .inl ⟨isDelim, by rw [isDelim, esc1_delim]⟩
  · by_cases marker : b = p.esc
    · exact .inr (.inl ⟨isDelim, marker, by rw [marker, esc1_esc p (marker ▸ isDelim)]⟩)
    · exact .inr (.inr ⟨isDelim, marker, esc1_other p b isDelim marker⟩)

theorem reserved_iff (p : Params) (b : Byte) : Spec.reserved p b = true ↔ b = delim ∨ b = p.esc := by
  simp [Spec.reserved, delim]

/-- A byte's escaped form has one byte more exactly for the two reserved values (R64). -/
theorem length_esc1 (p : Params) (b : Byte) : (esc1 p b).length = 1 + if Spec.reserved p b then 1 else 0 := by
  simp only [reserved_iff]
  rcases esc1_cases p b with ⟨isDelim, e⟩ | ⟨_, marker, e⟩ | ⟨noDelim, literal, e⟩
  · rw [e, if_pos (.inl isDelim)]
    rfl
  · rw [e, if_pos (.inr marker)]
    rfl
  · rw [e, if_neg (not_or.mpr ⟨noDelim, literal⟩)]
    rfl

theorem length_escape (p : Params) (x : Bytes) :
    (escape p x).length = x.length + x.countP (Spec.reserved p) := by
  induction x with
  | nil => rfl
  | cons b x ih =>
    rw [escape_cons, List.length_append, length_esc1, ih, List.length_cons, List.countP_cons]
    omega

/-! ### UNESCAPE after ESCAPE -/

/-- UNESCAPE takes the escaped form of a byte off the front and gives the byte back. -/
theorem unescape_esc1_append {p : Params} (legal : p.legal = true) (b : Byte) (t : Bytes) :
    unescape p (esc1 p b ++ t) = b :: unescape p t := by
  rcases esc1_cases p b with ⟨rfl, e⟩ | ⟨_, rfl, e⟩ | ⟨_, literal, e⟩
  · rw [e]
    exact unescape_pairDelim p t
  · rw [e]
    exact unescape_pairEsc p (Params.legal_p2 legal) t
  · rw [e]
    exact unescape_lit p b literal t

theorem unescape_escape {p : Params} (legal : p.legal = true) (x : Bytes) : unescape p (escape p x) = x := by
  induction x with
  | nil => rfl
  | cons b x ih => rw [escape_cons, unescape_esc1_append legal, ih]

/-- Settles O41, by `unescape_escape`. -/
theorem unescapeInvertsEscape : Obligations.UnescapeInvertsEscape := by
  intro s x legal
  have roundTrip := returns_unescape (escape s.params x) s
  rw [unescape_escape legal] at roundTrip
  exact ⟨_, exec_escape x s, roundTrip⟩

/-! ### The well-formed sequences -/

/-- R123 (a) and (b) read at the first byte and after it. -/
theorem wellFormed_cons (p : Params) (b : Byte) (t : Bytes) :
    Spec.WellFormed p (b :: t) ↔
      (b ≠ delim ∧ (b = p.esc → t.head? = some p.code1 ∨ t.head? = some p.code2)) ∧ Spec.WellFormed p t := by
  constructor
  · rintro ⟨noDelim, followed⟩
    obtain ⟨notFirst, notLater⟩ := not_or.mp (List.mem_cons.not.mp noDelim)
    refine ⟨⟨Ne.symm notFirst, fun marker => ?_⟩, notLater, fun i => followed (i + 1)⟩
    simpa [marker, List.head?_eq_getElem?] using followed 0
  · rintro ⟨⟨notFirst, firstFollowed⟩, notLater, followed⟩
    refine ⟨List.mem_cons.not.mpr (not_or.mpr ⟨Ne.symm notFirst, notLater⟩), fun i => ?_⟩
    cases i with
    | zero => simpa [List.head?_eq_getElem?] using firstFollowed
    | succ i => exact followed i

theorem wellFormed_nil (p : Params) : Spec.WellFormed p [] := by simp [Spec.WellFormed]

theorem wellFormed_of_append {p : Params} {u t : Bytes} (wf : Spec.WellFormed p (u ++ t)) : Spec.WellFormed p t := by
  induction u with
  | nil => exact wf
  | cons b u ih => exact ih ((wellFormed_cons p b _).mp wf).2

theorem escapedForm_iff (p : Params) (t : Bytes) : escapedForm p t = true ↔ Spec.WellFormed p t := by
  induction t with
  | nil => simp [escapedForm, wellFormed_nil]
  | cons b t ih =>
    rw [wellFormed_cons, ← ih]
    cases t with
    | nil => simp [escapedForm]
    | cons c t => simp [escapedForm, or_assoc, imp_iff_not_or]

/-- The escaped form of a byte put before a well-formed sequence leaves it well-formed. -/
theorem wellFormed_esc1_append {p : Params} (legal : p.legal = true) (b : Byte) {t : Bytes} (wf : Spec.WellFormed p t) :
    Spec.WellFormed p (esc1 p b ++ t) := by
  have p1 := Params.legal_p1 legal
  rcases esc1_cases p b with ⟨_, e⟩ | ⟨_, _, e⟩ | ⟨noDelim, literal, e⟩
  · simp [e, wellFormed_cons, wf, p1, Params.legal_p3_code1 legal, Params.legal_p4_code1 legal]
  · simp [e, wellFormed_cons, wf, p1, Params.legal_p3_code2 legal, Params.legal_p4_code2 legal]
  · simp [e, wellFormed_cons, wf, noDelim, literal]

theorem wellFormed_escape {p : Params} (legal : p.legal = true) (x : Bytes) : Spec.WellFormed p (escape p x) := by
  induction x with
  | nil => exact wellFormed_nil p
  | cons b x ih => exact wellFormed_esc1_append legal b ih

/-- In a well-formed sequence every code is the escaped form of the byte it stands for. -/
theorem HeadCode.escape_plain {p : Params} {b : Byte} {t rest : Bytes} {c : Code} (head : HeadCode p b t c rest)
    (legal : p.legal = true) (wf : Spec.WellFormed p (b :: t)) : escape p (c.plain p) = c.escaped p := by
  obtain ⟨⟨noDelim, followed⟩, -⟩ := (wellFormed_cons p b t).mp wf
  cases head with
  | lit literal => exact (escape_singleton p b).trans (esc1_other p b noDelim literal)
  | pairDelim => exact escape_delim p
  | pairEsc => exact (escape_singleton p p.esc).trans (esc1_esc p (Params.legal_p1 legal))
  | pairIll no1 no2 => exact ((followed rfl).elim no1 no2).elim

theorem escape_unescape {p : Params} (legal : p.legal = true) {t : Bytes} (wf : Spec.WellFormed p t) :
    escape p (unescape p t) = t := by
  induction t using codewise_induction p with
  | nil => rfl
  | code b t ih =>
    have head := nextCode_headCode (p := p) b t
    have restWellFormed : Spec.WellFormed p (nextCode p b t).2 := wellFormed_of_append (head.escaped_append ▸ wf)
    rw [head.unescape_eq, escape_append, head.escape_plain legal wf, ih restWellFormed, head.escaped_append]

theorem escape_unescape_iff {p : Params} (legal : p.legal = true) (t : Bytes) :
    escape p (unescape p t) = t ↔ Spec.WellFormed p t :=
  ⟨fun same => same ▸ wellFormed_escape legal _, escape_unescape legal⟩

theorem getLast?_ne_esc_of_wellFormed {p : Params} {t : Bytes} (wf : Spec.WellFormed p t) : t.getLast? ≠ some p.esc := by
  intro last
  obtain ⟨u, rfl⟩ := List.getLast?_eq_some_iff.mp last
  simpa [wellFormed_cons] using wellFormed_of_append wf

theorem next_ne_esc_of_wellFormed {p : Params} {t : Bytes} (legal : p.legal = true) (wf : Spec.WellFormed p t) (i : Nat)
    (marker : t[i]? = some p.esc) : t[i + 1]? ≠ some p.esc := by
  obtain ⟨-, followed⟩ := wf
  rcases followed i marker with is1 | is2
  · simpa [is1] using Params.legal_p4_code1 legal
  · simpa [is2] using Params.legal_p4_code2 legal

/-- Settles O36: an escaped sequence is well-formed, its length is counted byte by byte, and UNESCAPE gives a preimage of every
well-formed one. -/
theorem escapedSequencesAreTheWellFormedOnes : Obligations.EscapedSequencesAreTheWellFormedOnes := by
  refine fun p legal => ⟨fun x => ?_, fun t => ⟨fun wf => ⟨unescape p t, escape_unescape legal wf⟩, ?_⟩⟩
  · have wf := wellFormed_escape legal x
    have length := length_escape p x
    have atMost := x.countP_le_length (p := Spec.reserved p)
    exact ⟨wf, getLast?_ne_esc_of_wellFormed wf, by omega, by omega, length, next_ne_esc_of_wellFormed legal wf⟩
  · rintro ⟨x, rfl⟩
    exact wellFormed_escape legal x

/-- R131's example: what UNESCAPE leaves of the twice escaped delimiter is the once escaped one. -/
theorem unescape_escapedPair {p : Params} (legal : p.legal = true) :
    unescape p [p.esc, p.code2, p.code1] = [p.esc, p.code1] :=
  unescape_pairEsc p (Params.legal_p2 legal) [p.code1]

/-- Settles O42, by `escape_unescape_iff` and `unescape_escape`; the examples of R130 and R131 by the equations of the codec. -/
theorem escapeIsABijectionOntoTheWellFormed : Obligations.EscapeIsABijectionOntoTheWellFormed := by
  intro p legal
  have p2 := Params.legal_p2 legal
  have roundTrip : Function.LeftInverse (unescape p) (escape p) := unescape_escape legal
  have code1_literal : esc1 p p.code1 = [p.code1] :=
    esc1_other p p.code1 (Params.legal_p3_code1 legal) (Params.legal_p4_code1 legal)
  have undone : unescape p [p.esc, p.code1] = [delim] := unescape_pairDelim p []
  refine ⟨escape_unescape_iff legal, escapedForm_iff p, fun _ _ same => roundTrip.injective same,
    roundTrip.surjective, ?_, ?_, ?_, unescape_escapedPair legal, ?_, escape_delim p⟩
  · rw [unescape_ill p p.esc (Params.legal_p4_code1 legal).symm (Params.legal_p4_code2 legal).symm, undone]
    rfl
  · rw [unescape_pairEsc p p2, undone]
    rfl
  · exact (congrArg (unescape p) (unescape_escapedPair legal)).trans undone
  · refine (congrArg (escape p) (escape_delim p)).trans ?_
    rw [escape_cons, escape_singleton, esc1_esc p (Params.legal_p1 legal), code1_literal]
    rfl

/-- Settles O39, by the branches of R125 that copy a byte (`unescape_ill`, `unescape_lit`). -/
theorem illFormedPairsPassThrough : Obligations.IllFormedPairsPassThrough := by
  intro s c y legal no1 no2
  refine ⟨returns_unescape _ s, ⟨_, returns_unescape _ s, ?_⟩, ⟨_, returns_unescape _ s, ?_⟩⟩
  · exact unescape_ill s.params c no1 no2 y ▸ returns_unescape _ s
  · exact unescape_lit s.params delim (Params.legal_p1 legal).symm y ▸ returns_unescape _ s

end Sys2Proof.Machine
end

section
/-! The other descriptions of UNESCAPE and ESCAPE agree with the single passes: R125's indexed loop, the byte-at-a-time
unescaper with `PEND` (R126), and the two ordered replacements (R124, R128). -/

namespace Sys2Proof.Machine

/-! ### The indexed loop -/

/-- One round of R125's loop consumes the code at the index and puts out the bytes it stands for. -/
theorem unescapeLoop_succ {p : Params} {t u rest : Bytes} {i : Nat} {b : Byte} {c : Code} (here : t.drop i = b :: u)
    (head : HeadCode p b u c rest) (fuel : Nat) (out : Bytes) :
    Spec.unescapeLoop p t (fuel + 1) i out =
      Spec.unescapeLoop p t fuel (i + (c.escaped p).length) (out ++ c.plain p) := by
  have current : t[i]? = some b := by rw [← List.head?_drop, here]; rfl
  have next : t[i + 1]? = u.head? := by rw [← List.head?_drop, ← List.drop_drop, here]; rfl
  rw [Spec.unescapeLoop]
  simp only [current, next]
  cases head with
  | lit literal => simp [literal, Code.escaped, Code.plain]
  | pairDelim => simp [Code.escaped, Code.plain, delim]
  | pairEsc distinct => simp [distinct.symm, Code.escaped, Code.plain]
  | pairIll no1 no2 => simp [no1, no2, Code.escaped, Code.plain]

/-- With fuel for the bytes that are left, the loop puts out UNESCAPE of them. -/
theorem unescapeLoop_eq {p : Params} {t u : Bytes} {i fuel : Nat} (here : t.drop i = u) (enough : u.length ≤ fuel)
    (out : Bytes) : Spec.unescapeLoop p t fuel i out = out ++ unescape p u := by
  induction u using codewise_induction p generalizing i fuel out with
  | nil =>
    have ended : t[i]? = none := by rw [← List.head?_drop, here]; rfl
    cases fuel <;> simp [Spec.unescapeLoop, ended]
  | code b u ih =>
    have head := nextCode_headCode (p := p) b u
    obtain ⟨fuel, rfl⟩ := Nat.exists_eq_add_one.mpr (Nat.lt_of_lt_of_le (Nat.succ_pos _) enough)
    have there : t.drop (i + ((nextCode p b u).1.escaped p).length) = (nextCode p b u).2 := by
      rw [← List.drop_drop, here, ← head.escaped_append, List.drop_left]
    have enoughRest : (nextCode p b u).2.length ≤ fuel := head.rest_length_le.trans (Nat.le_of_succ_le_succ enough)
    rw [unescapeLoop_succ here head, ih there enoughRest, head.unescape_eq, List.append_assoc]

/-- Settles O37, by `unescapeLoop_eq` from index 0. -/
theorem unescapeComputesTheScan : Obligations.UnescapeComputesTheScan := by
  intro s t
  rw [unescapeLoop_eq List.drop_zero le_rfl, List.nil_append]
  exact returns_unescape t s

/-! ### The byte-at-a-time unescaper -/

/-- What `PEND` stands for: the marker that was consumed and not yet emitted (R126). -/
def State.owed (s : State) : Bytes := if s.pend then [s.params.esc] else []

theorem State.owed_of_settled {s : State} (settled : s.pend = false) : s.owed = [] := by simp [State.owed, settled]

theorem State.with_pend {s : State} {q : Bool} (h : s.pend = q) : { s with pend := q } = s := by rw [← h]

/-- `unesc_put` with `PEND` at 0 (R126). -/
theorem unescPut_settled {s : State} (settled : s.pend = false) (b : Byte) :
    s.unescPut b = if b = s.params.esc then ({ s with pend := true }, []) else (s, [b]) := by
  simp [State.unescPut, settled]

/-- `unesc_put` with `PEND` at 1 (R126). -/
theorem unescPut_armed {s : State} (armed : s.pend = true) (b : Byte) :
    s.unescPut b =
      if b = s.params.code1 then ({ s with pend := false }, [delim])
      else if b = s.params.code2 then ({ s with pend := false }, [s.params.esc])
      else if b = s.params.esc then (s, [s.params.esc])
      else ({ s with pend := false }, [s.params.esc, b]) := by
  simp [State.unescPut, armed]

/-- `unesc_end` emits what is owed and leaves `PEND` at 0 (R126). -/
theorem unescEnd_eq (s : State) : s.unescEnd = ({ s with pend := false }, s.owed) := by
  cases h : s.pend <;> simp [State.unescEnd, State.owed, h, State.with_pend h]

theorem unescPut_state (b : Byte) (s : State) : ∃ q, (s.unescPut b).1 = { s with pend := q } := by
  cases h : s.pend with
  | false =>
    rw [unescPut_settled h]
    split
    · exact ⟨true, rfl⟩
    · exact ⟨s.pend, rfl⟩
  | true =>
    rw [unescPut_armed h]
    split_ifs
    · exact ⟨false, rfl⟩
    · exact ⟨false, rfl⟩
    · exact ⟨s.pend, rfl⟩
    · exact ⟨false, rfl⟩

theorem unescPuts_state (t : Bytes) (s : State) : ∃ q, (State.unescPuts t s).1 = { s with pend := q } := by
  induction t generalizing s with
  | nil => exact ⟨s.pend, rfl⟩
  | cons b t ih =>
    obtain ⟨q, put⟩ := unescPut_state b s
    obtain ⟨r, puts⟩ := ih { s with pend := q }
    exact ⟨r, by rw [State.unescPuts, put, puts]⟩

/-- One byte put: UNESCAPE of what is owed and all bytes to come is what the put emits, then UNESCAPE of what is owed after it
and the bytes still to come. -/
theorem unescape_owed_cons (b : Byte) (t : Bytes) (s : State) :
    unescape s.params (s.owed ++ b :: t) =
      (s.unescPut b).2 ++ unescape s.params ((s.unescPut b).1.owed ++ t) := by
  cases h : s.pend with
  | false =>
    rw [unescPut_settled h]
    split
    case isTrue marker => simp [State.owed, h, marker]
    case isFalse literal => simp [State.owed, h, unescape_lit s.params b literal]
  | true =>
    rw [unescPut_armed h]
    split_ifs with is1 is2 marker
    · simp [State.owed, h, is1, unescape_pairDelim]
    · simp [State.owed, h, is2, unescape_pairEsc s.params (fun same => is1 (is2.trans same.symm))]
    · simp [State.owed, h, marker, unescape_ill s.params s.params.esc (marker ▸ is1) (marker ▸ is2)]
    · simp [State.owed, h, unescape_ill s.params b is1 is2, unescape_lit s.params b marker]

theorem unescape_owed_append (x y : Bytes) (s : State) :
    unescape s.params (s.owed ++ (x ++ y)) =
      (State.unescPuts x s).2 ++ unescape s.params ((State.unescPuts x s).1.owed ++ y) := by
  induction x generalizing s with
  | nil => rfl
  | cons b x ih =>
    obtain ⟨q, put⟩ := unescPut_state b s
    have rest := ih (s.unescPut b).1
    rw [show (s.unescPut b).1.params = s.params by rw [put]] at rest
    rw [List.cons_append, unescape_owed_cons, rest, State.unescPuts, List.append_assoc]

theorem unescape_owed (s : State) : unescape s.params s.owed = s.owed := by
  cases h : s.pend <;> simp [State.owed, h]

/-- All that the puts emit and what is owed after them is UNESCAPE. -/
theorem unescPuts_emits {s : State} (settled : s.pend = false) (t : Bytes) :
    (State.unescPuts t s).2 ++ (State.unescPuts t s).1.owed = unescape s.params t := by
  obtain ⟨q, puts⟩ := unescPuts_state t s
  have owed := unescape_owed (State.unescPuts t s).1
  rw [show (State.unescPuts t s).1.params = s.params by rw [puts]] at owed
  have all := unescape_owed_append t [] s
  rw [List.append_nil, List.append_nil, owed, State.owed_of_settled settled, List.nil_append] at all
  exact all.symm

/-- Where nothing is owed a sequence may be cut (R126). -/
theorem unescape_append {s : State} (settled : s.pend = false) {x : Bytes}
    (settledAfter : (State.unescPuts x s).1.pend = false) (y : Bytes) :
    unescape s.params (x ++ y) = unescape s.params x ++ unescape s.params y := by
  have all := unescape_owed_append x y s
  have first := unescPuts_emits settled x
  rw [State.owed_of_settled settled, State.owed_of_settled settledAfter, List.nil_append, List.nil_append] at all
  rw [State.owed_of_settled settledAfter, List.append_nil] at first
  rw [all, first]

/-- Settles O38: the total by `unescPuts_emits`, the cut by `unescape_append`, the steps by the equations of `unesc_put`. -/
theorem streamingUnescapeAgrees : Obligations.StreamingUnescapeAgrees := by
  intro s _ settled
  refine ⟨fun t => ?_, fun x y settledAfter => unescape_append settled settledAfter y, rfl,
    unescape_pairDelim s.params [], unescPut_settled settled, fun b => ?_, ?_, ?_⟩
  · obtain ⟨q, puts⟩ := unescPuts_state t s
    rw [unescEnd_eq]
    exact ⟨unescPuts_emits settled t, by rw [puts]; exact State.with_pend settled⟩
  · rw [unescPut_armed rfl]
    simp only [State.with_pend settled]
    rfl
  · rw [unescEnd_eq, State.with_pend settled, State.owed_of_settled settled]
  · rw [unescEnd_eq]
    simp only [State.with_pend settled]
    rfl

/-! ### The two ordered replacements -/

/-- The marker first: the pairs it inserts have no delimiter, so the second pass leaves them (R124). -/
theorem escapeTwoPass_eq {p : Params} (legal : p.legal = true) (x : Bytes) : escapeTwoPass p x = escape p x := by
  have p1 := Params.legal_p1 legal
  rw [escapeTwoPass, replaceByte, replaceByte, List.flatMap_assoc, escape]
  congr 1
  funext b
  rcases esc1_cases p b with ⟨rfl, e⟩ | ⟨_, rfl, e⟩ | ⟨noDelim, literal, e⟩
  · simp [e, p1.symm]
  · simp [e, p1, Params.legal_p3_code2 legal]
  · simp [e, noDelim, literal]

section Replace
variable {x y z : Byte}

theorem replacePair_pair (t : Bytes) : replacePair x y z (x :: y :: t) = z :: replacePair x y z t := by
  simp [replacePair]

theorem replacePair_keep {b : Byte} {t : Bytes} (noPair : b = x → t.head? ≠ some y) :
    replacePair x y z (b :: t) = b :: replacePair x y z t := by
  cases t with
  | nil => rfl
  | cons c t => rw [replacePair, if_neg fun ⟨isX, isY⟩ => noPair isX (congrArg some isY)]

/-- A replacement leaves the first byte or writes its own there. -/
theorem head?_replacePair (t : Bytes) :
    (replacePair x y z t).head? = t.head? ∨ (replacePair x y z t).head? = some z := by
  cases t with
  | nil => exact .inl rfl
  | cons b t =>
    by_cases pair : b = x ∧ t.head? = some y
    · obtain ⟨rfl, head⟩ := pair
      obtain ⟨t, rfl⟩ := List.head?_eq_some_iff.mp head
      rw [replacePair_pair]
      exact .inr rfl
    · rw [replacePair_keep fun isX head => pair ⟨isX, head⟩]
      exact .inl rfl

end Replace

/-- Both replacements do with the code at the head what the single scan does (R128). -/
theorem HeadCode.unescapeTwoPass_eq {p : Params} {b : Byte} {t rest : Bytes} {c : Code} (head : HeadCode p b t c rest)
    (legal : p.legal = true) : unescapeTwoPass p (b :: t) = c.plain p ++ unescapeTwoPass p rest := by
  unfold unescapeTwoPass
  cases head with
  | lit literal =>
    rw [replacePair_keep fun marker => absurd marker literal, replacePair_keep fun marker => absurd marker literal]
    rfl
  | pairDelim =>
    rw [replacePair_pair, replacePair_keep fun marker => absurd marker.symm (Params.legal_p1 legal)]
    rfl
  | pairEsc distinct =>
    rw [replacePair_keep (by simpa using distinct.symm),
      replacePair_keep fun marker => absurd marker (Params.legal_p4_code2 legal), replacePair_pair]
    rfl
  | pairIll no1 no2 =>
    have stillIll : (replacePair p.esc p.code1 delim t).head? ≠ some p.code2 := by
      rcases head?_replacePair (x := p.esc) (y := p.code1) (z := delim) t with e | e
      · rwa [e]
      · simpa [e] using (Params.legal_p3_code2 legal).symm
    rw [replacePair_keep fun _ => no1, replacePair_keep fun _ => stillIll]
    rfl

theorem unescapeTwoPass_eq {p : Params} (legal : p.legal = true) (t : Bytes) : unescapeTwoPass p t = unescape p t := by
  induction t using codewise_induction p with
  | nil => rfl
  | code b t ih =>
    have head := nextCode_headCode (p := p) b t
    rw [head.unescapeTwoPass_eq legal, ih, head.unescape_eq]

/-- Settles O40: the stated orders by `escapeTwoPass_eq` and `unescapeTwoPass_eq`, the opposite ones by R124's and R128's
examples. -/
theorem twoPassFormsAgreeInTheStatedOrder : Obligations.TwoPassFormsAgreeInTheStatedOrder := by
  intro p legal
  refine ⟨escapeTwoPass_eq legal, ?_, escape_delim p, unescapeTwoPass_eq legal, ?_,
    unescape_escapedPair legal⟩
  · simp [replaceByte, Params.legal_p4_code1 legal]
  · rw [replacePair_pair]
    exact replacePair_pair []

end Sys2Proof.Machine
end

section
/-! The checksum unit (42_checksum.md): CHECKSUM as a sum of bytes under exclusive-or, CHECK as the test that a non-empty
sequence sums to 0, and the host's decision about a frame (R140 to R142, R145 to R148). -/

namespace Sys2Proof.Machine

/-! ### The two instructions -/

theorem returns_checksum (q : Bytes) (s : State) : Spec.Returns (.checksum q) s (.byte (checksum q)) :=
  ⟨_, rfl, rfl, rfl, rfl, rfl⟩

theorem returns_check (u : Bytes) (s : State) : Spec.Returns (.check u) s (.bool (check u)) :=
  ⟨_, rfl, rfl, rfl, rfl, rfl⟩

/-! ### CHECKSUM from the right, byte by byte and bit by bit -/

theorem checksum_eq_xorAll (q : Bytes) : checksum q = Spec.xorAll q := by
  induction q with
  | nil => rfl
  | cons b q ih => rw [checksum_cons, ih, Spec.xorAll]

/-- Settles O44, by `checksum_eq_xorAll`. -/
theorem checksumIsTheXorOfAllBytes : Obligations.ChecksumIsTheXorOfAllBytes := fun s q =>
  checksum_eq_xorAll q ▸ returns_checksum q s

/-- Absorbing a sequence accumulates it in `ACC` and touches nothing else (R141). -/
theorem foldl_xabs (q : Bytes) (s : State) : q.foldl State.xabs s = { s with acc := s.acc ^^^ checksum q } := by
  induction q generalizing s with
  | nil => simp
  | cons b q ih =>
    rw [List.foldl_cons, ih, checksum_cons, State.xabs_acc, xorByte, BitVec.xor_assoc]
    rfl

theorem foldl_xabs_xclr (q : Bytes) (s : State) : q.foldl State.xabs s.xclr = { s with acc := checksum q } := by
  rw [foldl_xabs, State.xclr_acc, zero_xor]
  rfl

/-- A byte with bit `k` set changes the parity of that bit and no other byte does: there is no carry (R141). -/
theorem getLsbD_checksum (q : Bytes) (k : Nat) :
    (checksum q).getLsbD k = decide (q.countP (fun b => b.getLsbD k) % 2 = 1) := by
  induction q with
  | nil => simp
  | cons b q ih =>
    rw [checksum_cons, BitVec.getLsbD_xor, ih, List.countP_cons]
    cases b.getLsbD k with
    | false => simp
    | true =>
      rw [if_pos rfl, Bool.true_xor, ← decide_not]
      exact decide_eq_decide.mpr (by omega)

/-- Settles O45: the register by `foldl_xabs_xclr`, the bits by `getLsbD_checksum`. -/
theorem streamingChecksumAgreesAndBitsAreParities : Obligations.StreamingChecksumAgreesAndBitsAreParities := fun s q =>
  have absorbed := foldl_xabs_xclr q s
  ⟨congrArg State.xrd absorbed, absorbed, rfl, fun _ => rfl, rfl, fun k _ => getLsbD_checksum q k⟩

/-! ### The laws of R142 -/

theorem checksum_append (x y : Bytes) : checksum (x ++ y) = checksum x ^^^ checksum y := by
  rw [checksum, List.foldl_append, foldl_xorByte]
  rfl

theorem checksum_perm {x y : Bytes} (reordered : x.Perm y) : checksum x = checksum y :=
  have : RightCommutative xorByte := ⟨fun a b c => by simp only [xorByte, BitVec.xor_assoc, BitVec.xor_comm b c]⟩
  reordered.foldl_eq 0

/-- Where a byte stands in a sequence does not matter to its sum. -/
theorem checksum_middle (x y : Bytes) (b : Byte) : checksum (x ++ b :: y) = b ^^^ checksum (x ++ y) := by
  rw [checksum_perm List.perm_middle, checksum_cons]

theorem checksum_insert_zero (x y : Bytes) : checksum (x ++ 0x00 :: y) = checksum (x ++ y) := by
  rw [checksum_middle, zero_xor]

theorem checksum_insert_twice (x y z : Bytes) (b : Byte) :
    checksum (x ++ b :: (y ++ b :: z)) = checksum (x ++ y ++ z) := by
  rw [checksum_middle, ← List.append_assoc, checksum_middle, xor_cancel_left]

theorem checksum_insert_replicate_even (x y : Bytes) (b : Byte) (n : Nat) :
    checksum (x ++ List.replicate (2 * n) b ++ y) = checksum (x ++ y) := by
  induction n with
  | zero => simp
  | succ n ih =>
    have twice := checksum_insert_twice x [] (List.replicate (2 * n) b ++ y) b
    rw [List.append_nil, ← List.append_assoc x, ih] at twice
    simpa [Nat.mul_add, List.replicate_succ] using twice

/-- Settles O46: cuts by `checksum_append`, orders by `checksum_perm`, insertions by `checksum_middle`. -/
theorem checksumLawsForSequences : Obligations.ChecksumLawsForSequences :=
  ⟨checksum_append, fun _ _ => checksum_perm, checksum_insert_zero, checksum_insert_replicate_even⟩

/-! ### CHECK -/

theorem checksum_concat (q : Bytes) (c : Byte) : checksum (q ++ [c]) = checksum q ^^^ c := by
  rw [checksum_append, checksum_cons, checksum_nil, xor_zero]

/-- R145: a sequence sums to 0 exactly when its last byte is the checksum of those before it. -/
theorem checksum_concat_eq_zero_iff (q : Bytes) (c : Byte) : checksum (q ++ [c]) = 0 ↔ checksum q = c := by
  rw [checksum_concat, xor_eq_zero_iff]

/-- Settles O47, by `checksum_concat_eq_zero_iff`. -/
theorem appendedChecksumSumsToZero : Obligations.AppendedChecksumSumsToZero := by
  refine ⟨fun q => (checksum_concat_eq_zero_iff q _).mpr rfl, fun u nonempty => ?_⟩
  obtain ⟨q, c, rfl⟩ := (List.eq_nil_or_concat' u).resolve_left nonempty
  rw [List.getLast?_concat, List.dropLast_concat, Option.some_inj, eq_comm (a := c)]
  exact checksum_concat_eq_zero_iff q c

theorem check_nil : check [] = false := rfl

theorem check_concat (q : Bytes) (c : Byte) : check (q ++ [c]) = (checksum q == c) := by
  rw [check, splitTrailing_concat]

theorem check_of_ne_nil {u : Bytes} (nonempty : u ≠ []) : check u = (checksum u == 0) := by
  obtain ⟨q, c, rfl⟩ := (List.eq_nil_or_concat' u).resolve_left nonempty
  rw [check_concat, Bool.eq_iff_iff, beq_iff_eq, beq_iff_eq, checksum_concat_eq_zero_iff]

/-- Settles O48, by `check_nil`, `check_concat` and `check_of_ne_nil`. -/
theorem checkComparesTheTrailingByte : Obligations.CheckComparesTheTrailingByte := by
  refine fun s => ⟨check_nil ▸ returns_check [] s, fun q c => ?_, fun u nonempty => ?_⟩
  · rw [← checksum_eq_xorAll, ← check_concat]
    exact returns_check _ s
  · rw [← checksum_eq_xorAll]
    exact check_of_ne_nil nonempty ▸ returns_check u s

/-! ### What CHECK sees and does not see -/

/-- CHECK depends on the sum alone, once the empty sequence is set apart (R146). -/
theorem check_congr {u v : Bytes} (empty : u = [] ↔ v = []) (sum : checksum u = checksum v) : check u = check v := by
  by_cases isNil : u = []
  · rw [isNil, empty.mp isNil]
  · rw [check_of_ne_nil isNil, check_of_ne_nil (empty.not.mp isNil), sum]

/-- Replacing a byte changes the sum by the difference of the two bytes (R148). -/
theorem checksum_set {u : Bytes} {i : Nat} {b : Byte} (here : u[i]? = some b) (v : Byte) :
    checksum (u.set i v) = checksum u ^^^ (b ^^^ v) := by
  obtain ⟨inRange, value⟩ := List.getElem?_eq_some_iff.mp here
  have sum (w : Byte) : checksum (u.set i w) = w ^^^ checksum (u.take i ++ u.drop (i + 1)) := by
    rw [List.set_eq_take_append_cons_drop, if_pos inRange, checksum_middle]
  have unchanged : u.set i b = u := value ▸ List.set_getElem_self inRange
  have before := sum b
  rw [unchanged] at before
  rw [sum, before, BitVec.xor_comm b, BitVec.xor_assoc, xor_cancel_left, BitVec.xor_comm]

theorem check_set_eq_false {u : Bytes} {i : Nat} {b v : Byte} (passed : check u = true) (here : u[i]? = some b)
    (changed : v ≠ b) : check (u.set i v) = false := by
  have nonempty : u ≠ [] := by
    rintro rfl
    cases here
  rw [check_of_ne_nil nonempty, beq_iff_eq] at passed
  rw [check_of_ne_nil ((List.set_eq_nil_iff i v).not.mpr nonempty), beq_eq_false_iff_ne, checksum_set here, passed,
    zero_xor, Ne, xor_eq_zero_iff]
  exact changed.symm

/-- Two changes that flip the same bit positions cancel (R148). -/
theorem check_set_set {u : Bytes} {i j : Nat} {b c : Byte} (distinct : i ≠ j) (first : u[i]? = some b)
    (second : u[j]? = some c) (m : Byte) : check ((u.set i (b ^^^ m)).set j (c ^^^ m)) = check u := by
  have secondStill : (u.set i (b ^^^ m))[j]? = some c := (List.getElem?_set_ne distinct).trans second
  refine check_congr (by rw [List.set_eq_nil_iff, List.set_eq_nil_iff]) ?_
  rw [checksum_set secondStill, checksum_set first, xor_cancel_left, xor_cancel_left, xor_cancel_right]

/-- Settles O49: one change by `check_set_eq_false`; the others leave the sum as it was (`check_congr`). -/
theorem checkDetectsOneChangedByteAndNoReordering : Obligations.CheckDetectsOneChangedByteAndNoReordering := by
  refine ⟨fun _ _ _ _ => check_set_eq_false, fun u v reordered => ?_, fun _ _ _ _ _ m distinct first second =>
    check_set_set distinct first second m, fun x y nonempty => ?_, fun x y z b nonempty => ?_⟩
  · refine check_congr ?_ (checksum_perm reordered)
    rw [← List.length_eq_zero_iff, ← List.length_eq_zero_iff, reordered.length_eq]
  · exact check_congr (iff_of_false (by simp) nonempty) (checksum_insert_zero x y)
  · exact check_congr (iff_of_false (by simp) nonempty) (checksum_insert_twice x y z b)

/-! ### The host's decision -/

theorem check_concat_checksum (q : Bytes) : check (q ++ [checksum q]) = true := by
  rw [check_concat, beq_self_eq_true]

/-- Settles O54: the two settings of the option by R147's definition, and the frames of FRAME by `unescape_escape` and
`check_concat_checksum`. -/
theorem hostAcceptsWhatFrameMade : Obligations.HostAcceptsWhatFrameMade := by
  refine fun p legal => ⟨fun off f => ?_, fun on f => ?_, fun q => ?_⟩
  · rw [hostAccepts, off]
    rfl
  · rw [hostAccepts, on]
    rfl
  · rw [hostAccepts, unescape_escape legal, check_concat_checksum, Bool.or_true]

end Sys2Proof.Machine
end

section
/-! The framer (43_framer.md R160 to R162): FRAME as an instruction, and the shape of a framed sequence. -/

namespace Sys2Proof.Machine

theorem returns_frame (q : Bytes) (s : State) : Spec.Returns (.frame q) s (.bytes (frame s.params q)) :=
  ⟨_, rfl, rfl, rfl, rfl, rfl⟩

/-- The model's per-byte map is R64's table. -/
theorem escape_eq_flatMap_pairOf (p : Params) (x : Bytes) : escape p x = x.flatMap (Spec.pairOf p) := rfl

theorem escapedPayload_eq (p : Params) (q : Bytes) : escapedPayload p q = escape p (q ++ [checksum q]) := rfl

theorem frame_eq (p : Params) (q : Bytes) : frame p q = [0x7E] ++ escapedPayload p q ++ [0x7E] := rfl

/-- A framed sequence as a stream: a delimiter, the escaped payload, a delimiter (R162). -/
theorem frame_eq_cons (p : Params) (q : Bytes) : frame p q = delim :: (escapedPayload p q ++ [delim]) := rfl

/-- Settles O50: the order of the steps is `frame_eq` and `escapedPayload_eq`, each step as the rules write it by
`checksum_eq_xorAll` and `escape_eq_flatMap_pairOf`. -/
theorem frameIsChecksumThenEscapeThenDelimit : Obligations.FrameIsChecksumThenEscapeThenDelimit := by
  intro s q
  rw [← checksum_eq_xorAll, ← escape_eq_flatMap_pairOf, ← escapedPayload_eq, ← frame_eq]
  exact returns_frame q s

/-! ### Shape and length -/

theorem length_escapedPayload (p : Params) (q : Bytes) :
    (escapedPayload p q).length = q.length + 1 + (q ++ [checksum q]).countP (Spec.reserved p) := by
  rw [escapedPayload_eq, length_escape, List.length_append, List.length_singleton]

theorem escapedPayload_ne_nil (p : Params) (q : Bytes) : escapedPayload p q ≠ [] := by
  apply List.ne_nil_of_length_pos
  rw [length_escapedPayload]
  omega

theorem length_frame (p : Params) (q : Bytes) :
    (frame p q).length = q.length + 3 + (q ++ [checksum q]).countP (Spec.reserved p) := by
  rw [frame_eq_cons, List.length_cons, List.length_append, List.length_singleton, length_escapedPayload]
  omega

/-- Where a sequence holds no delimiter, the two put around it are the only ones (R162). -/
theorem delim_only_at_ends {e : Bytes} (inside : delim ∉ e) {i : Nat} (here : (delim :: (e ++ [delim]))[i]? = some delim) :
    i = 0 ∨ i + 1 = (delim :: (e ++ [delim])).length := by
  cases i with
  | zero => exact .inl rfl
  | succ i =>
    rw [List.getElem?_cons_succ] at here
    have inRange : i < (e ++ [delim]).length := (List.getElem?_eq_some_iff.mp here).1
    have notInside : ¬i < e.length := fun lt =>
      inside (List.mem_of_getElem? ((List.getElem?_append_left lt).symm.trans here))
    simp only [List.length_append, List.length_cons, List.length_nil] at inRange ⊢
    omega

/-- Settles O51: the content is an escaped sequence, so well-formed, and the length is counted by `length_frame`. -/
theorem framedSequenceShape : Obligations.FramedSequenceShape := by
  intro p q legal
  have wf : Spec.WellFormed p (escapedPayload p q) := wellFormed_escape legal _
  have length := length_frame p q
  have atMost := (q ++ [checksum q]).countP_le_length (p := Spec.reserved p)
  rw [List.length_append, List.length_singleton] at atMost
  refine ⟨escapedPayload p q, frame_eq p q, wf, fun i => delim_only_at_ends wf.1, by omega, by omega, length, by omega, ?_⟩
  intro empty
  rw [empty, List.length_cons, List.length_singleton] at length
  omega

end Sys2Proof.Machine
end

section
/-! ASSEMBLE_ALL of what FRAME made (R163, R164): the bytes of an escaped sequence are all appended, so the closing delimiter
emits it exactly when it fits the buffer. -/

namespace Sys2Proof.Machine

/-! ### Appending a sequence -/

/-- `append` of each byte of a sequence in order (R107). -/
def State.appendAll (x : Bytes) (s : State) : State := x.foldl (fun t b => t.append b) s

theorem appendAll_append (x y : Bytes) (s : State) : s.appendAll (x ++ y) = (s.appendAll x).appendAll y :=
  List.foldl_append

theorem appendAll_concat (x : Bytes) (b : Byte) (s : State) : s.appendAll (x ++ [b]) = (s.appendAll x).append b :=
  appendAll_append x [b] s

theorem appendAll_leaves (x : Bytes) (s : State) :
    (s.appendAll x).params = s.params ∧ (s.appendAll x).state = s.state := by
  induction x generalizing s with
  | nil => exact ⟨rfl, rfl⟩
  | cons b x ih =>
    obtain ⟨params, state⟩ := ih (s.append b)
    exact ⟨params.trans (State.append_params b s), state.trans (State.append_state b s)⟩

/-- There is room for a byte exactly when the buffer with it fits (R107). -/
theorem hasRoom_eq_fits (b : Byte) (s : State) : s.hasRoom = Spec.fits s.params (s.buf ++ [b]) := by
  unfold State.hasRoom Spec.fits
  cases s.params.bufCap with
  | none => rfl
  | some n => exact decide_eq_decide.mpr (by rw [List.length_append, List.length_singleton, Nat.lt_iff_add_one_le])

theorem fits_nil (p : Params) : Spec.fits p [] = true := fits_iff.mpr fun n _ => n.zero_le

theorem fits_of_append {p : Params} {x y : Bytes} (fits : Spec.fits p (x ++ y) = true) : Spec.fits p x = true :=
  fits_iff.mpr fun n cap => (List.length_append ▸ Nat.le_add_right _ _).trans (fits_iff.mp fits n cap)

section Holding
variable {s : State} (v : AsmState) {x : Bytes}

theorem appendAll_holding (fits : Spec.fits s.params x = true) : (s.holding v []).appendAll x = s.holding v x := by
  induction x using List.reverseRecOn with
  | nil => rfl
  | append_singleton x b ih => rw [appendAll_concat, ih (fits_of_append fits), append_holding fits]

/-- A sequence that does not fit has lost a byte: the first append without room, and no append clears `TRUNC` (R107). -/
theorem trunc_appendAll_holding (long : ¬Spec.fits s.params x = true) : ((s.holding v []).appendAll x).trunc = true := by
  induction x using List.reverseRecOn with
  | nil => exact absurd (fits_nil s.params) long
  | append_singleton x b ih =>
    rw [appendAll_concat]
    by_cases fits : Spec.fits s.params x = true
    · have noRoom : ¬(s.holding v x).hasRoom = true := hasRoom_eq_fits b (s.holding v x) ▸ long
      rw [appendAll_holding v fits, State.append, if_neg noRoom]
      rfl
    · rcases State.append_cases b ((s.holding v []).appendAll x) with ⟨_, e⟩ | ⟨_, e⟩
      · rw [e, State.memAppend_trunc, ih fits]
      · rw [e, State.raiseBufferOverflow_trunc]

/-- What a closing delimiter emits after a non-empty sequence: all of it when it fits, nothing otherwise (R102). -/
theorem emission_appendAll_holding (nonempty : x ≠ []) :
    ((s.holding v []).appendAll x).emission.toList = [x].filter (Spec.fits s.params) := by
  by_cases fits : Spec.fits s.params x = true
  · have emits : (s.holding v x).emission = some x := if_pos ⟨nonempty, rfl⟩
    rw [appendAll_holding v fits, emits, List.filter_cons_of_pos fits]
    rfl
  · have drops : ((s.holding v []).appendAll x).emission = none := if_neg fun ⟨_, whole⟩ => by
      rw [trunc_appendAll_holding v fits] at whole
      cases whole
    rw [drops, List.filter_cons_of_neg fits]
    rfl

end Holding

/-! ### The parts of a stream -/

theorem assembleAll_append_of_eq {x y : Bytes} {s t u : State} {fs gs : List Bytes} (first : assembleAll x s = (t, fs))
    (rest : assembleAll y t = (u, gs)) : assembleAll (x ++ y) s = (u, fs ++ gs) := by
  rw [assembleAll_append, first, rest]

/-- Bytes between frames are discarded (R101b, R113). -/
theorem assembleAll_gap {s : State} (scan : s.state = .scan) {g : Bytes} (noDelim : delim ∉ g) :
    assembleAll g s = (s, []) := by
  induction g with
  | nil => rfl
  | cons b g ih =>
    obtain ⟨other, noDelim⟩ := List.ne_and_not_mem_of_not_mem_cons noDelim
    exact assembleAll_cons_none ((feed_of_scan b s scan).trans (if_neg (Ne.symm other))) (ih noDelim)

/-- A delimiter in a frame is its end (R102). -/
theorem assembleAll_delim_of_infr {s : State} (infr : s.state = .infr) :
    assembleAll [delim] s = (s.clearFrame.goto .scan, s.emission.toList) := by
  simp [assembleAll, feed_delim_of_infr s infr]

theorem append_goto (b : Byte) (v : AsmState) (s : State) : (s.goto v).append b = (s.append b).goto v := by
  unfold State.append
  rw [show (s.goto v).hasRoom = s.hasRoom from rfl]
  split <;> rfl

section InFrame
variable {s : State} (legal : s.params.legal = true) (infr : s.state = .infr)

include infr in
theorem feed_literal {b : Byte} (noDelim : b ≠ delim) (literal : b ≠ s.params.esc) : feed b s = (s.append b, none) := by
  rw [feed_of_infr b s infr noDelim, if_neg literal, goto_of_state ((State.append_state b s).trans infr)]

include legal infr

/-- In a frame a marker and the byte after it, whatever it is, are both appended (R104, R106). -/
theorem assembleAll_pair (c : Byte) :
    assembleAll [s.params.esc, c] s = (s.appendAll [s.params.esc, c], []) := by
  have stays : (s.appendAll [s.params.esc, c]).state = .infr := (appendAll_leaves _ s).2.trans infr
  have armed : feed s.params.esc s = ((s.append s.params.esc).goto .escp, none) := by
    rw [feed_of_infr s.params.esc s infr (Params.legal_p1 legal), if_pos rfl]
  have disarmed : feed c ((s.append s.params.esc).goto .escp) = (s.appendAll [s.params.esc, c], none) := by
    rw [feed_of_escp c _ rfl, append_goto]
    exact congrArg (·, none) (goto_of_state stays)
  exact assembleAll_cons_none armed (assembleAll_cons_none disarmed rfl)

/-- In a frame the escaped form of a byte is appended and the assembler is in the frame again. -/
theorem assembleAll_esc1 (b : Byte) : assembleAll (esc1 s.params b) s = (s.appendAll (esc1 s.params b), []) := by
  rcases esc1_cases s.params b with ⟨_, e⟩ | ⟨_, _, e⟩ | ⟨noDelim, literal, e⟩
  · rw [e]
    exact assembleAll_pair legal infr _
  · rw [e]
    exact assembleAll_pair legal infr _
  · rw [e]
    exact assembleAll_cons_none (feed_literal infr noDelim literal) rfl

end InFrame

theorem assembleAll_escape {p : Params} (legal : p.legal = true) {s : State} (params : s.params = p)
    (infr : s.state = .infr) (x : Bytes) : assembleAll (escape p x) s = (s.appendAll (escape p x), []) := by
  induction x generalizing s with
  | nil => rfl
  | cons b x ih =>
    obtain ⟨params', state'⟩ := appendAll_leaves (esc1 p b) s
    subst params
    rw [escape_cons, appendAll_append]
    exact assembleAll_append_of_eq (assembleAll_esc1 legal infr b) (ih params' (state'.trans infr))

/-- From SCAN a framed sequence gives its escaped payload exactly when it fits the buffer (R163, R164). -/
theorem assembleAll_frame {s : State} (legal : s.params.legal = true) (scan : s.state = .scan) (q : Bytes) :
    assembleAll (frame s.params q) s =
      (((s.holding .infr []).appendAll (escapedPayload s.params q)).clearFrame.goto .scan,
        [escapedPayload s.params q].filter (Spec.fits s.params)) := by
  have opened : feed delim s = (s.holding .infr [], none) := (feed_of_scan delim s scan).trans (if_pos rfl)
  have content := assembleAll_escape legal (s := s.holding .infr []) rfl rfl (q ++ [checksum q])
  have inFrame := (appendAll_leaves (escapedPayload s.params q) (s.holding .infr [])).2
  rw [frame_eq_cons, ← emission_appendAll_holding .infr (escapedPayload_ne_nil s.params q)]
  exact assembleAll_cons_none opened (assembleAll_append_of_eq content (assembleAll_delim_of_infr inFrame))

/-! ### The two round trips -/

/-- Settles O52: `assembleAll_frame` with a payload that fits, then `unescape_escape` and `check_concat_checksum`. -/
theorem assembleAllRecoversWhatFrameMade : Obligations.AssembleAllRecoversWhatFrameMade := by
  intro s q legal scan fits
  have plain := unescape_escape legal (q ++ [checksum q])
  refine ⟨_, _, returns_frame q s, rfl, ?_, plain, by rw [plain, check_concat_checksum], by rw [plain, List.dropLast_concat]⟩
  rw [← escapedPayload_eq] at fits ⊢
  have ran := assembleAll_frame legal scan q
  rw [appendAll_holding .infr fits, List.filter_cons_of_pos fits] at ran
  exact exec_assembleAll_of_eq ran

/-- Gaps and frames in turn: from SCAN back to SCAN, with the escaped payloads that fit. -/
theorem assembleAll_gaps_and_frames {p : Params} (legal : p.legal = true) {s : State} (params : s.params = p)
    (scan : s.state = .scan) {gqs : List (Bytes × Bytes)} (gaps : ∀ x ∈ gqs, delim ∉ x.1) :
    ∃ t : State, t.state = .scan ∧ assembleAll (gqs.flatMap fun x => x.1 ++ frame p x.2) s =
      (t, (gqs.map fun x => escapedPayload p x.2).filter (Spec.fits p)) := by
  induction gqs generalizing s with
  | nil => exact ⟨s, scan, rfl⟩
  | cons x gqs ih =>
    obtain ⟨gap, gaps⟩ := List.forall_mem_cons.mp gaps
    subst params
    have head := assembleAll_append_of_eq (assembleAll_gap scan gap) (assembleAll_frame legal scan x.2)
    have params := (assembleAll_leaves (x.1 ++ frame s.params x.2) s).1
    rw [head] at params
    obtain ⟨t, back, rest⟩ := ih params rfl gaps
    rw [List.flatMap_cons, List.map_cons, ← List.singleton_append, List.filter_append]
    exact ⟨t, back, assembleAll_append_of_eq head rest⟩

/-- Settles O53: the gaps and frames by `assembleAll_gaps_and_frames`, and the bytes after the last frame are one more gap. -/
theorem concatenatedFramesComeBackInOrder : Obligations.ConcatenatedFramesComeBackInOrder := by
  intro s gqs tail legal scan gaps noDelim
  obtain ⟨t, back, frames⟩ := assembleAll_gaps_and_frames legal rfl scan gaps
  have ran := assembleAll_append_of_eq frames (assembleAll_gap back noDelim)
  obtain ⟨_, _, _, _, results⟩ := assembleAll_leaves (gqs.flatMap (fun x => x.1 ++ frame s.params x.2) ++ tail) s
  rw [ran] at results
  rw [List.append_nil] at ran
  exact ⟨_, exec_assembleAll_of_eq ran, back, congrArg (· ++ _) results⟩

end Sys2Proof.Machine
end

section
/-! The block's one exception (R201, R202) and the totality of every operation (R200). -/

namespace Sys2Proof.Machine

/-! ### Every operation completes -/

/-- The constants are written by no operation (R8). -/
theorem exec_params {i : Instr} {s t : State} (h : exec i s = .next t) : t.params = s.params := by
  cases exec_effect h with
  | leaves same | resets same => exact same.params
  | feeds b _ same => exact same.params.trans (feed_leaves b s).1
  | assembles w same => exact same.params.trans (assembleAll_leaves w s).1

/-- What the host has yet to issue is written by no operation (R237): replacing the host's side by itself is no change. -/
theorem exec_pending {i : Instr} {s t : State} (h : exec i s = .next t) : t.pending = s.pending := by
  obtain ⟨t', rs, completes, _, other⟩ := exec_readsNoHostSide i s
  have unchanged : exec i s = .next (t'.withHostSide _) :=
    other ⟨s.params.verifyChecksum, s.params.validateLength, s.pending, s.results⟩
  cases h.symm.trans unchanged
  rfl

/-- Settles O55: every operation completes and only adds to the results (`exec_readsNoHostSide`); `exec_params` and
`exec_pending` say what it leaves. -/
theorem everyOperationCompletes : Obligations.EveryOperationCompletes := by
  intro i s
  obtain ⟨t, rs, completes, results, _⟩ := exec_readsNoHostSide i s
  exact ⟨t, rs, completes, exec_params completes, exec_pending completes, results⟩

/-! ### The overflow and the frame it truncates -/

/-- The rows that append, in one equation (R104 to R106). -/
theorem feed_of_appends {b : Byte} {s : State} (appends : Spec.appends b s) :
    feed b s = ((s.append b).goto (if s.state = .infr ∧ b = s.params.esc then .escp else .infr), none) := by
  rcases appends with escp | ⟨infr, noDelim⟩
  · simp [feed_of_escp b s escp, escp]
  · simp [feed_of_infr b s infr noDelim, infr]

/-- The append to a full buffer raises the overflow, and the row goes on (R107, R202). -/
theorem feed_of_full {b : Byte} {s : State} (inv : Inv s) (full : s.params.bufCap = some s.len)
    (appends : Spec.appends b s) :
    feed b s = (s.raiseBufferOverflow.goto (if s.state = .infr ∧ b = s.params.esc then .escp else .infr), none) := by
  have noRoom : s.hasRoom = false := (hasRoom_eq_false_iff inv).mpr full
  rw [feed_of_appends appends, State.append, noRoom, if_neg Bool.false_ne_true]

/-- A truncated frame is open, so every byte but its closing delimiter should be appended (R31 (I-a), (I-b)). -/
theorem appends_of_trunc {b : Byte} {s : State} (inv : Inv s) (lost : s.trunc = true)
    (notClosing : ¬(s.state = .infr ∧ b = delim)) : Spec.appends b s := by
  cases hs : s.state with
  | scan => simp [(inv.scanEmpty hs).2] at lost
  | infr => exact .inr ⟨hs, fun isDelim => notClosing ⟨hs, isDelim⟩⟩
  | escp => exact .inl hs
  | done => exact absurd hs inv.resting

/-- A truncated frame is dropped whole (R102). -/
theorem emission_of_trunc {s : State} (lost : s.trunc = true) : s.emission = none := by
  simp [State.emission, lost]

/-- Settles O25: the append to a full buffer is `feed_of_full`; a truncated frame fills its buffer (R31 (I-e)), so each byte
but the closing delimiter is such an append again; an unbounded buffer keeps both flags clear by R20's invariant. -/
theorem overflowIsRecordedAndTheFrameDroppedWhole : Obligations.OverflowIsRecordedAndTheFrameDroppedWhole := by
  refine ⟨fun s b inv full appends => ?_, fun s b inv lost => ?_, fun i s inv inf => ?_, fun _ _ _ => exec_ovf_sticky,
    fun s => ⟨s.resetInstance, rfl, rfl⟩⟩
  · exact ⟨_, exec_feed_of_eq (feed_of_full inv full appends), rfl, rfl, rfl, rfl, rfl, rfl, rfl⟩
  · obtain ⟨overflowed, full⟩ := inv.truncated lost
    by_cases closing : s.state = .infr ∧ b = 0x7E
    · obtain ⟨infr, rfl⟩ := closing
      refine ⟨_, exec_feed_of_eq (feed_delim_of_infr s infr), ?_, overflowed, ?_⟩
      · rw [emission_of_trunc lost]
        rfl
      · rw [if_pos ⟨infr, rfl⟩]
        exact ⟨rfl, rfl, rfl⟩
    · refine ⟨_, exec_feed_of_eq (feed_of_full inv full (appends_of_trunc inv lost closing)), rfl, rfl, ?_⟩
      rw [if_neg closing]
      exact ⟨rfl, rfl⟩
  · obtain ⟨t, completes⟩ := exec_completes i s
    have capacity : t.params.bufCap = none := by rw [exec_params completes, inf]
    exact ⟨t, completes, (exec_inv inv completes).unbounded capacity⟩

end Sys2Proof.Machine
end

section
/-! Hazards (70_reset_and_hazards.md): the delimiter that an escape marker swallows (R227), and two operations at once
(R223). -/

namespace Sys2Proof.Machine

/-! ### A swallowed delimiter -/

/-- From SCAN, content whose bytes are all appended and fit comes back as one frame between two delimiters (R101, R102). -/
theorem assembleAll_delimited {s : State} (scan : s.state = .scan) {x : Bytes} (nonempty : x ≠ [])
    (fits : Spec.fits s.params x = true)
    (appended : assembleAll x (s.holding .infr []) = ((s.holding .infr []).appendAll x, [])) :
    assembleAll (delim :: (x ++ [delim])) s = (s.holding .scan [], [x]) := by
  have opened : feed delim s = (s.holding .infr [], none) := (feed_of_scan delim s scan).trans (if_pos rfl)
  have closed : assembleAll [delim] (s.holding .infr x) = (s.holding .scan [], [x]) :=
    assembleAll_cons_some (feed_delim_infr_holding nonempty) rfl
  rw [appendAll_holding .infr fits] at appended
  exact assembleAll_cons_none opened (assembleAll_append_of_eq appended closed)

/-- In a frame, bytes that are neither delimiter nor marker are all appended (R105). -/
theorem assembleAll_literals {s : State} (infr : s.state = .infr) {x : Bytes}
    (literal : ∀ b ∈ x, b ≠ delim ∧ b ≠ s.params.esc) : assembleAll x s = (s.appendAll x, []) := by
  induction x generalizing s with
  | nil => rfl
  | cons b x ih =>
    obtain ⟨⟨noDelim, noEsc⟩, literal⟩ := List.forall_mem_cons.mp literal
    have rest := ih ((State.append_state b s).trans infr) (by rwa [State.append_params])
    exact assembleAll_cons_none (feed_literal infr noDelim noEsc) rest

/-- In a frame, a delimiter between literal bytes and straight after a marker is appended like them: it closes nothing
(R106, R227). -/
theorem assembleAll_swallowed_delim {s : State} (legal : s.params.legal = true) (infr : s.state = .infr) {x y : Bytes}
    (before : ∀ b ∈ x, b ≠ delim ∧ b ≠ s.params.esc) (after : ∀ b ∈ y, b ≠ delim ∧ b ≠ s.params.esc) :
    assembleAll (x ++ ([s.params.esc, delim] ++ y)) s = (s.appendAll (x ++ ([s.params.esc, delim] ++ y)), []) := by
  obtain ⟨params, state⟩ := appendAll_leaves x s
  obtain ⟨params', state'⟩ := appendAll_leaves [s.params.esc, delim] (s.appendAll x)
  have pair := assembleAll_pair (params.symm ▸ legal) (state.trans infr) delim
  rw [params] at pair
  have tail := assembleAll_literals (state'.trans (state.trans infr)) (by rwa [params', params])
  rw [appendAll_append, appendAll_append]
  exact assembleAll_append_of_eq (assembleAll_literals infr before) (assembleAll_append_of_eq pair tail)

/-- Settles O33: the content up to the second bare delimiter is appended (`assembleAll_swallowed_delim`), so it is the one
frame (`assembleAll_delimited`). -/
theorem delimiterAfterMarkerIsSwallowed : Obligations.DelimiterAfterMarkerIsSwallowed := by
  intro s a c legal scan capacity a_ne_delim a_ne_esc c_ne_delim c_ne_esc
  have fits : Spec.fits s.params [a, s.params.esc, delim, c] = true := fits_of_length_le capacity le_rfl
  have appended := assembleAll_swallowed_delim (s := s.holding .infr []) legal rfl
    (List.forall_mem_singleton.mpr ⟨a_ne_delim, a_ne_esc⟩) (List.forall_mem_singleton.mpr ⟨c_ne_delim, c_ne_esc⟩)
  exact exec_assembleAll_of_eq (assembleAll_delimited scan (List.cons_ne_nil _ _) fits appended)

/-! ### Two operations at once -/

theorem fetch_of_decode_error {s : State} {k : Packet} {ks : List Packet} {why : Reject} (legal : s.params.legal = true)
    (presented : s.pending = k :: ks) (rejected : decode s.params k = .error why) :
    s.fetch = .error (.undecodable why) := by
  simp only [State.fetch, if_pos legal, presented, rejected]

/-- A step of a packet the decoder rejects is refused with the decoder's reason (R223). -/
theorem step_of_decode_error {s : State} {k : Packet} {ks : List Packet} {why : Reject} (legal : s.params.legal = true)
    (presented : s.pending = k :: ks) (rejected : decode s.params k = .error why) :
    step s = .refused (.undecodable why) := by
  rw [step, fetch_of_decode_error legal presented rejected]

theorem decode_overlap (p : Params) (a b : BitVec 3) : decode p (.overlap a b) = .error .overlappingOperations := rfl

/-- Settles O6: the decoder rejects the packet whichever two operations it names (`decode_overlap`). -/
theorem overlappingOperationsAreRefused : Obligations.OverlappingOperationsAreRefused := fun s a b _ legal presented =>
  step_of_decode_error legal presented (decode_overlap s.params a b)

end Sys2Proof.Machine
end

section
/-! The decoder against the encoder (30_encoding.md): every row's round trip as one fact about all instructions, what the
decoder answers for each format of packet, and what a step executes (R118). -/

namespace Sys2Proof.Machine

/-! ### From an instruction to its packet and back -/

/-- The family `Laws.RoundTrip` as one statement about every instruction. -/
theorem roundTrip : ∀ i : Instr, Laws.RoundTrip.Statement i
  | .idle => Laws.RoundTrip.idle
  | .feed b => Laws.RoundTrip.feed b
  | .escape x => Laws.RoundTrip.escape x
  | .unescape t => Laws.RoundTrip.unescape t
  | .checksum q => Laws.RoundTrip.checksum q
  | .check u => Laws.RoundTrip.check u
  | .frame q => Laws.RoundTrip.frame q
  | .arst => Laws.RoundTrip.arst
  | .assembleAll w => Laws.RoundTrip.assembleAll w
  | .symDelim => Laws.RoundTrip.symDelim
  | .symEsc => Laws.RoundTrip.symEsc
  | .symOther b => Laws.RoundTrip.symOther b
  | .feedScanStart => Laws.RoundTrip.feedScanStart
  | .feedScanElse b => Laws.RoundTrip.feedScanElse b
  | .feedInfrStop => Laws.RoundTrip.feedInfrStop
  | .feedInfrStart => Laws.RoundTrip.feedInfrStart
  | .feedInfrEsc => Laws.RoundTrip.feedInfrEsc
  | .feedInfrOther b => Laws.RoundTrip.feedInfrOther b
  | .feedEscpAny b => Laws.RoundTrip.feedEscpAny b
  | .pairDelim => Laws.RoundTrip.pairDelim
  | .pairEsc => Laws.RoundTrip.pairEsc
  | .lit v => Laws.RoundTrip.lit v
  | .pairIll => Laws.RoundTrip.pairIll

/-- Only the row that no byte selects has no packet (R103). -/
theorem encode_eq_none_iff (p : Params) (i : Instr) : encode p i = none ↔ i = .feedInfrStart := by
  cases i <;> simp [encode]

/-! ### What the decoder answers is well-formed -/

/-- No operation code limits its operand (R67). -/
theorem wellFormed_decodeOp (p : Params) (op : BitVec 3) (byte : Byte) (seq : Bytes) :
    (decodeOp op byte seq).wellFormed p = true := by
  unfold decodeOp
  split_ifs <;> rfl

theorem wellFormed_decodeSym (p : Params) (b : Byte) : (decodeSym p b).wellFormed p = true := by
  unfold decodeSym
  cases category : classify p b with
  | delim | esc => rfl
  | other => simpa [Instr.wellFormed] using (classify_eq_other_iff p b).mp category

/-- The condition that selects a row implies the limit its instruction puts on the byte. -/
theorem RowSelected.wellFormed_instr {row : Row} {b : Byte} {s : State} (selected : RowSelected s b row) :
    (row.instr b).wellFormed s.params = true := by
  cases row with
  | scanStart | infrStop | infrEsc | escpAny => rfl
  | infrStart => exact selected.elim
  | scanElse => simpa [Row.instr, Instr.wellFormed, startByte_eq] using selected.2
  | infrOther => simpa [Row.instr, Instr.wellFormed, startByte_eq, stopByte_eq] using selected.2

theorem wellFormed_of_selectRow {p : Params} {v : AsmState} {b : Byte} {row : Row}
    (selected : selectRow startByte stopByte p.esc v b = some row) : (row.instr b).wellFormed p = true :=
  RowSelected.wellFormed_instr (s := { State.fresh p with state := v }) (rowOf_eq_some_iff.mp selected)

theorem HeadCode.wellFormed_instr {p : Params} {b : Byte} {t rest : Bytes} {c : Code} (head : HeadCode p b t c rest) :
    c.instr.wellFormed p = true := by
  cases head with
  | lit literal => simpa [Code.instr, Instr.wellFormed] using literal
  | pairDelim | pairEsc | pairIll => rfl

/-- Whatever the packet, what the decoder answers is an instruction the encodings allow. -/
theorem wellFormed_of_decode {p : Params} {k : Packet} {i : Instr} {more : Option Packet}
    (decoded : decode p k = .ok (i, more)) : i.wellFormed p = true := by
  cases k with
  | op3 op byte seq => cases decoded; exact wellFormed_decodeOp p op byte seq
  | pseudo w => cases decoded; rfl
  | sym8 b => cases decoded; exact wellFormed_decodeSym p b
  | feedRow c b =>
    simp only [decode] at decoded
    split at decoded
    next row selected => cases decoded; exact wellFormed_of_selectRow selected
    next => cases decoded
  | escaped b t => cases decoded; exact (nextCode_headCode b t).wellFormed_instr
  | overlap => cases decoded

/-- Settles O7: the round trip of every row (`roundTrip`), the one row without a packet (`encode_eq_none_iff`), and the
decoder's answers format by format (`wellFormed_of_decode`). -/
theorem decodeInvertsEncode : Obligations.DecodeInvertsEncode := fun p legal =>
  ⟨fun i => roundTrip i p legal, encode_eq_none_iff p, fun _ _ _ => wellFormed_of_decode⟩

/-! ### Reset and the step -/

/-- Settles O2: the defaults are legal, and the invariants hold of a fresh instance by `inv_fresh`. -/
theorem invariantsHoldAtReset : Obligations.InvariantsHoldAtReset :=
  ⟨inv_fresh Params.standard_legal, fun _ => inv_fresh⟩

/-- With nothing presented the command input reads as IDLE (R118, D12). -/
theorem fetch_of_nothing_presented {s : State} (legal : s.params.legal = true) (nothing : s.pending = []) :
    s.fetch = .ok (.idle, s) := by
  simp only [State.fetch, if_pos legal, nothing]

theorem step_of_nothing_presented {s : State} (legal : s.params.legal = true) (nothing : s.pending = []) :
    step s = exec .idle s := by
  rw [step, fetch_of_nothing_presented legal nothing]

/-- Settles O4: a step by what the decoder answers (`step_of_decode`), which for the packet of a well-formed instruction is
that instruction and no rest (`decode_of_encode`). -/
theorem stepRunsTheDecodedInstruction : Obligations.StepRunsTheDecodedInstruction := fun _ legal =>
  ⟨step_of_nothing_presented legal, fun _ _ _ _ => step_of_decode legal, fun i _ _ presented wellFormed encoded =>
    step_of_decode legal presented (decode_of_encode (roundTrip i) legal wellFormed encoded)⟩

end Sys2Proof.Machine
end
